-- ==== Sys2Proof/Word.lean ====
section
/-!
DEFINITION. The word types of the CHIP-8 core and nothing else: a byte (a V register, a memory
byte, a timer, SP), a 16-bit word (I, PC, IR, a stack entry, an instruction), the 4-bit register
index and the 12-bit address field (spec/00_scope.md R5, R8; spec/30_encoding.md R61).
-/

namespace Sys2Proof

/-- An 8-bit unsigned value. -/
abbrev Byte := BitVec 8

/-- A 16-bit unsigned value. -/
abbrev Word := BitVec 16

/-- A 4-bit field: a register index `X` or `Y`, a key code, or the nibble `N`. -/
abbrev Nibble := BitVec 4

/-- The 12-bit field `NNN`. -/
abbrev Addr12 := BitVec 12

end Sys2Proof
end

