-- ==== Sys2Proof/Syntax.lean ====
section
/-!
DEFINITION. The instructions: one constructor per row of spec/opcode_table.json (33 instructions
and the 10 unimplemented rows), each with the fields the table gives the row
(spec/30_encoding.md R62, R65, R66).
-/

namespace Sys2Proof

/-- The instructions, in the table's order; each docstring gives the row's pattern. -/
inductive Instr where
  /-- `00E0` -/
  | cls
  /-- `00EE` -/
  | ret
  /-- `1NNN` -/
  | jp (nnn : Addr12)
  /-- `2NNN` -/
  | call (nnn : Addr12)
  /-- `3XKK` -/
  | seImm (x : Nibble) (kk : Byte)
  /-- `4XKK` -/
  | sneImm (x : Nibble) (kk : Byte)
  /-- `5XY0` (the low nibble is ignored, R67) -/
  | seReg (x y : Nibble)
  /-- `6XKK` -/
  | ldImm (x : Nibble) (kk : Byte)
  /-- `7XKK` -/
  | addImm (x : Nibble) (kk : Byte)
  /-- `8XY0` -/
  | ldReg (x y : Nibble)
  /-- `8XY1` -/
  | orReg (x y : Nibble)
  /-- `8XY2` -/
  | andReg (x y : Nibble)
  /-- `8XY3` -/
  | xorReg (x y : Nibble)
  /-- `8XY4` -/
  | addReg (x y : Nibble)
  /-- `8XY5` -/
  | sub (x y : Nibble)
  /-- `8XY6` (`Y` is a don't-care, R68) -/
  | shr (x y : Nibble)
  /-- `8XY7` -/
  | subn (x y : Nibble)
  /-- `8XYE` (`Y` is a don't-care, R68) -/
  | shl (x y : Nibble)
  /-- `9XY0` (the low nibble is ignored, R67) -/
  | sneReg (x y : Nibble)
  /-- `ANNN` -/
  | ldI (nnn : Addr12)
  /-- `BNNN` -/
  | jpV0 (nnn : Addr12)
  /-- `CXKK` -/
  | rnd (x : Nibble) (kk : Byte)
  /-- `DXYN` -/
  | drw (x y n : Nibble)
  /-- `EX9E` -/
  | skp (x : Nibble)
  /-- `EXA1` -/
  | sknp (x : Nibble)
  /-- `FX07` -/
  | ldVxDt (x : Nibble)
  /-- `FX15` -/
  | ldDtVx (x : Nibble)
  /-- `FX18` -/
  | ldStVx (x : Nibble)
  /-- `FX1E` -/
  | addI (x : Nibble)
  /-- `FX29` -/
  | ldF (x : Nibble)
  /-- `FX33` -/
  | ldB (x : Nibble)
  /-- `FX55` -/
  | ldMemVx (x : Nibble)
  /-- `FX65` -/
  | ldVxMem (x : Nibble)
  /-- `8XY8`, unimplemented -/
  | unimpl88 (x y : Nibble)
  /-- `8XY9`, unimplemented -/
  | unimpl89 (x y : Nibble)
  /-- `8XYA`, unimplemented -/
  | unimpl8A (x y : Nibble)
  /-- `8XYB`, unimplemented -/
  | unimpl8B (x y : Nibble)
  /-- `8XYC`, unimplemented -/
  | unimpl8C (x y : Nibble)
  /-- `8XYD`, unimplemented -/
  | unimpl8D (x y : Nibble)
  /-- `8XYF`, unimplemented -/
  | unimpl8F (x y : Nibble)
  /-- `0NNN` other than `00E0`, `00EE`: unimplemented -/
  | unimpl0 (nnn : Addr12)
  /-- `EXKK` other than `EX9E`, `EXA1`: unimplemented -/
  | unimplE (x : Nibble) (kk : Byte)
  /-- `FXKK` other than the eight `FXnn` rows: unimplemented -/
  | unimplF (x : Nibble) (kk : Byte)
  deriving DecidableEq, Repr

end Sys2Proof
end

