-- ==== Sys2Proof/WellFormed.lean ====
section
/-!
DEFINITION. Which terms of `Instr` stand for an encoding. The field widths are in the types; what is
left is that a fallback row (`UNIMPL_0`, `UNIMPL_E`, `UNIMPL_F`) does not hold a key that selects an
instruction (spec/30_encoding.md R64, R66).
-/

namespace Sys2Proof

/-- The second-level keys of family 0 that select an instruction (R64). -/
def keyUsed0 (nnn : Addr12) : Bool := nnn == 0x0E0 || nnn == 0x0EE

/-- The second-level keys of family 0xE that select an instruction (R64). -/
def keyUsedE (kk : Byte) : Bool := kk == 0x9E || kk == 0xA1

/-- The second-level keys of family 0xF that select an instruction (R64). -/
def keyUsedF (kk : Byte) : Bool :=
  kk == 0x07 || kk == 0x15 || kk == 0x18 || kk == 0x1E ||
  kk == 0x29 || kk == 0x33 || kk == 0x55 || kk == 0x65

/-- The term is the reading of some instruction word. -/
def Instr.wellFormed : Instr → Bool
  | .cls | .ret | .jp _ | .call _ | .seImm _ _ | .sneImm _ _ | .seReg _ _ => true
  | .ldImm _ _ | .addImm _ _ | .ldReg _ _ | .orReg _ _ | .andReg _ _ | .xorReg _ _ => true
  | .addReg _ _ | .sub _ _ | .shr _ _ | .subn _ _ | .shl _ _ | .sneReg _ _ => true
  | .ldI _ | .jpV0 _ | .rnd _ _ | .drw _ _ _ | .skp _ | .sknp _ => true
  | .ldVxDt _ | .ldDtVx _ | .ldStVx _ | .addI _ | .ldF _ | .ldB _ | .ldMemVx _ | .ldVxMem _ => true
  | .unimpl88 _ _ | .unimpl89 _ _ | .unimpl8A _ _ | .unimpl8B _ _ => true
  | .unimpl8C _ _ | .unimpl8D _ _ | .unimpl8F _ _ => true
  | .unimpl0 nnn => !keyUsed0 nnn
  | .unimplE _ kk => !keyUsedE kk
  | .unimplF _ kk => !keyUsedF kk

/-- The constructor is one of the ten rows of the table that are no instruction (R66). -/
def Instr.unimplemented : Instr → Bool
  | .cls | .ret | .jp _ | .call _ | .seImm _ _ | .sneImm _ _ | .seReg _ _ => false
  | .ldImm _ _ | .addImm _ _ | .ldReg _ _ | .orReg _ _ | .andReg _ _ | .xorReg _ _ => false
  | .addReg _ _ | .sub _ _ | .shr _ _ | .subn _ _ | .shl _ _ | .sneReg _ _ => false
  | .ldI _ | .jpV0 _ | .rnd _ _ | .drw _ _ _ | .skp _ | .sknp _ => false
  | .ldVxDt _ | .ldDtVx _ | .ldStVx _ | .addI _ | .ldF _ | .ldB _ | .ldMemVx _ | .ldVxMem _ => false
  | .unimpl88 _ _ | .unimpl89 _ _ | .unimpl8A _ _ | .unimpl8B _ _ => true
  | .unimpl8C _ _ | .unimpl8D _ _ | .unimpl8F _ _ => true
  | .unimpl0 _ | .unimplE _ _ | .unimplF _ _ => true

end Sys2Proof
end

