-- ==== Sys2Proof/Decode.lean ====
section
/-!
DEFINITION. The decoder (spec/30_encoding.md R61, R64 to R67), total on every word and on every list
of bytes; the encoder written from the same formats (R62); and the mask and match of each row (R65),
a second transcription of the table to hold the decoder against.
-/

namespace Sys2Proof

/-! ### Fields (R61) -/

/-- `op[15:12]`. -/
def fieldFamily (op : Word) : Nibble := op.extractLsb' 12 4

/-- `X = op[11:8]`. -/
def fieldX (op : Word) : Nibble := op.extractLsb' 8 4

/-- `Y = op[7:4]`. -/
def fieldY (op : Word) : Nibble := op.extractLsb' 4 4

/-- `N = op[3:0]`. -/
def fieldN (op : Word) : Nibble := op.extractLsb' 0 4

/-- `KK = op[7:0]`. -/
def fieldKK (op : Word) : Byte := op.extractLsb' 0 8

/-- `NNN = op[11:0]`. -/
def fieldNNN (op : Word) : Addr12 := op.extractLsb' 0 12

/-! ### The two-level dispatch (R64) -/

/-- Family 0: the key is the whole of `op[11:0]`. -/
def decode0 (nnn : Addr12) : Instr :=
  if nnn = 0x0E0 then .cls
  else if nnn = 0x0EE then .ret
  else .unimpl0 nnn

/-- Family 8: the key is the low nibble. -/
def decode8 (x y n : Nibble) : Instr :=
  match n.toNat with
  | 0x0 => .ldReg x y
  | 0x1 => .orReg x y
  | 0x2 => .andReg x y
  | 0x3 => .xorReg x y
  | 0x4 => .addReg x y
  | 0x5 => .sub x y
  | 0x6 => .shr x y
  | 0x7 => .subn x y
  | 0x8 => .unimpl88 x y
  | 0x9 => .unimpl89 x y
  | 0xA => .unimpl8A x y
  | 0xB => .unimpl8B x y
  | 0xC => .unimpl8C x y
  | 0xD => .unimpl8D x y
  | 0xE => .shl x y
  | _ => .unimpl8F x y

/-- Family 0xE: the key is the low byte. -/
def decodeE (x : Nibble) (kk : Byte) : Instr :=
  if kk = 0x9E then .skp x
  else if kk = 0xA1 then .sknp x
  else .unimplE x kk

/-- Family 0xF: the key is the low byte. -/
def decodeF (x : Nibble) (kk : Byte) : Instr :=
  if kk = 0x07 then .ldVxDt x
  else if kk = 0x15 then .ldDtVx x
  else if kk = 0x18 then .ldStVx x
  else if kk = 0x1E then .addI x
  else if kk = 0x29 then .ldF x
  else if kk = 0x33 then .ldB x
  else if kk = 0x55 then .ldMemVx x
  else if kk = 0x65 then .ldVxMem x
  else .unimplF x kk

/-- The decoder, a total function on all 65536 values of `op` (R64). Families 5 and 9 have no second
level: their low nibble is ignored (R67). -/
def decode (op : Word) : Instr :=
  match (fieldFamily op).toNat with
  | 0x0 => decode0 (fieldNNN op)
  | 0x1 => .jp (fieldNNN op)
  | 0x2 => .call (fieldNNN op)
  | 0x3 => .seImm (fieldX op) (fieldKK op)
  | 0x4 => .sneImm (fieldX op) (fieldKK op)
  | 0x5 => .seReg (fieldX op) (fieldY op)
  | 0x6 => .ldImm (fieldX op) (fieldKK op)
  | 0x7 => .addImm (fieldX op) (fieldKK op)
  | 0x8 => decode8 (fieldX op) (fieldY op) (fieldN op)
  | 0x9 => .sneReg (fieldX op) (fieldY op)
  | 0xA => .ldI (fieldNNN op)
  | 0xB => .jpV0 (fieldNNN op)
  | 0xC => .rnd (fieldX op) (fieldKK op)
  | 0xD => .drw (fieldX op) (fieldY op) (fieldN op)
  | 0xE => decodeE (fieldX op) (fieldKK op)
  | _ => decodeF (fieldX op) (fieldKK op)

/-- Two bytes as an instruction word, the byte at the lower address in `op[15:8]` (R45). -/
def wordOfBytes (hi lo : Byte) : Word := hi ++ lo

/-- Why a list of bytes holds no instruction: an instruction is two bytes long (R60). No word is
rejected (R69: "no encoding traps at decode"). -/
inductive DecodeError where
  /-- Fewer than two bytes are left. -/
  | truncated
  deriving DecidableEq, Repr

/-- The first instruction of a list of bytes, and the bytes after it. -/
def decodeBytes : List Byte → Except DecodeError (Instr × List Byte)
  | hi :: lo :: rest => .ok (decode (wordOfBytes hi lo), rest)
  | [_] => .error .truncated
  | [] => .error .truncated

/-! ### The encoder (R62) -/

/-- Format `A`: family and `NNN`. -/
def wordA (family : Nibble) (nnn : Addr12) : Word := family ++ nnn

/-- Formats `XK` and `XS`: family, `X` and a byte. -/
def wordXK (family x : Nibble) (kk : Byte) : Word := wordA family (x ++ kk)

/-- Formats `XY` and `XYN`: family, `X`, `Y` and a nibble. -/
def wordXYN (family x y n : Nibble) : Word := wordXK family x (y ++ n)

/-- The instruction word; the canonical one (`n = 0`) for `5XY0` and `9XY0` (R67). -/
def encode : Instr → Word
  | .cls => 0x00E0
  | .ret => 0x00EE
  | .jp nnn => wordA 0x1 nnn
  | .call nnn => wordA 0x2 nnn
  | .seImm x kk => wordXK 0x3 x kk
  | .sneImm x kk => wordXK 0x4 x kk
  | .seReg x y => wordXYN 0x5 x y 0x0
  | .ldImm x kk => wordXK 0x6 x kk
  | .addImm x kk => wordXK 0x7 x kk
  | .ldReg x y => wordXYN 0x8 x y 0x0
  | .orReg x y => wordXYN 0x8 x y 0x1
  | .andReg x y => wordXYN 0x8 x y 0x2
  | .xorReg x y => wordXYN 0x8 x y 0x3
  | .addReg x y => wordXYN 0x8 x y 0x4
  | .sub x y => wordXYN 0x8 x y 0x5
  | .shr x y => wordXYN 0x8 x y 0x6
  | .subn x y => wordXYN 0x8 x y 0x7
  | .shl x y => wordXYN 0x8 x y 0xE
  | .sneReg x y => wordXYN 0x9 x y 0x0
  | .ldI nnn => wordA 0xA nnn
  | .jpV0 nnn => wordA 0xB nnn
  | .rnd x kk => wordXK 0xC x kk
  | .drw x y n => wordXYN 0xD x y n
  | .skp x => wordXK 0xE x 0x9E
  | .sknp x => wordXK 0xE x 0xA1
  | .ldVxDt x => wordXK 0xF x 0x07
  | .ldDtVx x => wordXK 0xF x 0x15
  | .ldStVx x => wordXK 0xF x 0x18
  | .addI x => wordXK 0xF x 0x1E
  | .ldF x => wordXK 0xF x 0x29
  | .ldB x => wordXK 0xF x 0x33
  | .ldMemVx x => wordXK 0xF x 0x55
  | .ldVxMem x => wordXK 0xF x 0x65
  | .unimpl88 x y => wordXYN 0x8 x y 0x8
  | .unimpl89 x y => wordXYN 0x8 x y 0x9
  | .unimpl8A x y => wordXYN 0x8 x y 0xA
  | .unimpl8B x y => wordXYN 0x8 x y 0xB
  | .unimpl8C x y => wordXYN 0x8 x y 0xC
  | .unimpl8D x y => wordXYN 0x8 x y 0xD
  | .unimpl8F x y => wordXYN 0x8 x y 0xF
  | .unimpl0 nnn => wordA 0x0 nnn
  | .unimplE x kk => wordXK 0xE x kk
  | .unimplF x kk => wordXK 0xF x kk

/-- The two bytes of an instruction word, as memory holds them (R45). -/
def bytesOfWord (op : Word) : List Byte := [op.extractLsb' 8 8, op.extractLsb' 0 8]

/-- The instruction as bytes. -/
def encodeBytes (i : Instr) : List Byte := bytesOfWord (encode i)

/-- `mask` and `match` of the instruction's row, from the table of R65 (and, for the unimplemented
rows, spec/opcode_table.json). -/
def Instr.row : Instr → Word × Word
  | .cls => (0xFFFF, 0x00E0)
  | .ret => (0xFFFF, 0x00EE)
  | .jp _ => (0xF000, 0x1000)
  | .call _ => (0xF000, 0x2000)
  | .seImm _ _ => (0xF000, 0x3000)
  | .sneImm _ _ => (0xF000, 0x4000)
  | .seReg _ _ => (0xF000, 0x5000)
  | .ldImm _ _ => (0xF000, 0x6000)
  | .addImm _ _ => (0xF000, 0x7000)
  | .ldReg _ _ => (0xF00F, 0x8000)
  | .orReg _ _ => (0xF00F, 0x8001)
  | .andReg _ _ => (0xF00F, 0x8002)
  | .xorReg _ _ => (0xF00F, 0x8003)
  | .addReg _ _ => (0xF00F, 0x8004)
  | .sub _ _ => (0xF00F, 0x8005)
  | .shr _ _ => (0xF00F, 0x8006)
  | .subn _ _ => (0xF00F, 0x8007)
  | .shl _ _ => (0xF00F, 0x800E)
  | .sneReg _ _ => (0xF000, 0x9000)
  | .ldI _ => (0xF000, 0xA000)
  | .jpV0 _ => (0xF000, 0xB000)
  | .rnd _ _ => (0xF000, 0xC000)
  | .drw _ _ _ => (0xF000, 0xD000)
  | .skp _ => (0xF0FF, 0xE09E)
  | .sknp _ => (0xF0FF, 0xE0A1)
  | .ldVxDt _ => (0xF0FF, 0xF007)
  | .ldDtVx _ => (0xF0FF, 0xF015)
  | .ldStVx _ => (0xF0FF, 0xF018)
  | .addI _ => (0xF0FF, 0xF01E)
  | .ldF _ => (0xF0FF, 0xF029)
  | .ldB _ => (0xF0FF, 0xF033)
  | .ldMemVx _ => (0xF0FF, 0xF055)
  | .ldVxMem _ => (0xF0FF, 0xF065)
  | .unimpl88 _ _ => (0xF00F, 0x8008)
  | .unimpl89 _ _ => (0xF00F, 0x8009)
  | .unimpl8A _ _ => (0xF00F, 0x800A)
  | .unimpl8B _ _ => (0xF00F, 0x800B)
  | .unimpl8C _ _ => (0xF00F, 0x800C)
  | .unimpl8D _ _ => (0xF00F, 0x800D)
  | .unimpl8F _ _ => (0xF00F, 0x800F)
  | .unimpl0 _ => (0xF000, 0x0000)
  | .unimplE _ _ => (0xF000, 0xE000)
  | .unimplF _ _ => (0xF000, 0xF000)

/-- What the decoder reads from an instruction whose bits are `w`, numbered as
spec/opcode_table.json numbers them. Every instruction is one 16-bit word (R60); its bytes are laid
out high byte first (R45) and given to `decodeBytes`. A word wider than the instruction is none. -/
def decodeTableWord (nbits w : Nat) : Option Instr :=
  if nbits ≤ 16 ∧ w < 2 ^ nbits then
    match decodeBytes (bytesOfWord (BitVec.ofNat 16 w)) with
    | .ok (i, _) => some i
    | .error _ => none
  else none

end Sys2Proof
end

