-- ==== Sys2Proof/Config.lean ====
section
/-!
DEFINITION. What an implementation fixes (the open parameters of spec/00_scope.md R6), the events that
come from outside, and the two free values (the random byte of `CXKK`, the schedule of the events).

The parameters are plain data, a `Params`; the machine's state carries one that no step writes
(assumption 3), so a statement about every state is a statement about every value of the
parameters. The free values have no body: nothing in Lean can evaluate them (assumptions 1, 2).
-/

namespace Sys2Proof

/-- The open parameters of R6, fixed for one machine. -/
structure Params where
  /-- `FONT`: the 80 bytes copied to 0x000..0x04F at construction (R211). -/
  font : Vector Byte 80
  /-- `P_VCLIP`: sprite rows below row 31 are dropped instead of wrapped (R152). -/
  vclip : Bool
  /-- `P_FLAG_LAST`: with X = 0xF the flag survives, not the result (R120). -/
  flagLast : Bool
  deriving DecidableEq, Repr

/-- The default `FONT` that R211 tabulates, glyph 0 first, five bytes a glyph.
PRESUMED (by the spec itself: general knowledge, D18, G7); unsafe for a claim about glyph shapes;
assumption 4. -/
def Config.defaultFont : Vector Byte 80 :=
  #v[0xF0, 0x90, 0x90, 0x90, 0xF0,  0x20, 0x60, 0x20, 0x20, 0x70,
     0xF0, 0x10, 0xF0, 0x80, 0xF0,  0xF0, 0x10, 0xF0, 0x10, 0xF0,
     0x90, 0x90, 0xF0, 0x10, 0x10,  0xF0, 0x80, 0xF0, 0x10, 0xF0,
     0xF0, 0x80, 0xF0, 0x90, 0xF0,  0xF0, 0x10, 0x20, 0x40, 0x40,
     0xF0, 0x90, 0xF0, 0x90, 0xF0,  0xF0, 0x90, 0xF0, 0x10, 0xF0,
     0xF0, 0x90, 0xF0, 0x90, 0x90,  0xE0, 0x90, 0xE0, 0x90, 0xE0,
     0xF0, 0x80, 0x80, 0x80, 0xF0,  0xE0, 0x90, 0x90, 0x90, 0xE0,
     0xF0, 0x80, 0xF0, 0x80, 0xF0,  0xF0, 0x80, 0xF0, 0x80, 0x80]

/-- The defaults R6 gives the parameters.
DESIGN CHOICE (the spec leaves the parameters open and names these defaults); unsafe for a claim
that rests on one of them; assumption 3. -/
def Config.defaultParams : Params where
  font := Config.defaultFont
  vclip := false
  flagLast := false

/-- The random byte of the `n`-th draw (R132, D17): a free value, any byte, under no law.
DESIGN CHOICE of its form; safe; assumption 2. -/
opaque Config.rnd : Nat → Byte

/-- The events the machine accepts (spec/40_cycle_and_events.md R80, R82). -/
inductive Machine.Event where
  /-- `Reset(rom)`: construct the machine from a ROM image (spec/70_reset_and_hazards.md R210). -/
  | reset (rom : List Byte)
  /-- `CpuTick`: one instruction cycle (R83). -/
  | cpuTick
  /-- `TimerTick`: one 60 Hz step (R86). -/
  | timerTick
  /-- `KeySet(k)` (R88). -/
  | keySet (k : Nibble)
  /-- `KeyClear(k)` (R88). -/
  | keyClear (k : Nibble)
  /-- `FrameAck`: the frame has been consumed (R89). -/
  | frameAck
  deriving DecidableEq, Repr, Inhabited

/-- The `n`-th event the outside drives where none is known to be waiting
(spec/40_cycle_and_events.md R90: "any interleaving is an execution of the machine"): a free value, any
unending sequence of events, under no law, so what is proved holds of every interleaving.
DESIGN CHOICE of its form; safe; assumption 1. -/
opaque Config.schedule : Nat → Machine.Event

end Sys2Proof
end

