-- ==== Sys2Proof/Machine/State.lean ====
section
/-!
DEFINITION. The state of the machine (spec/10_state.md R20: "The complete state of the hardware is the
tuple below. Nothing else is state"), the reasons a step can stop, and the state after reset (R34).
Plain data throughout. The fields `params`, `draws`, `events` and `scheduled` are the model's own: what R33
calls parameters of the step relation (assumptions 1, 2, 3). So is `created`: whether there is a machine at all
(assumption 8).
-/

namespace Sys2Proof.Machine

open Sys2Proof

/-- `halt`: whether a fatal condition has occurred, and which (R31). -/
inductive Halt where
  | none
  | fetchOutOfRange
  | dataOutOfRange
  | stackOverflow
  | stackUnderflow
  deriving DecidableEq, Repr

/-- The 64×32 one-bit framebuffer, `fb[y][x]`: 32 rows of 64 cells (R27). -/
abbrev Framebuffer := Vector (Vector Bool 64) 32

/-- Memory: the bytes that differ from what an unlisted address reads as, by rising address
(spec/20_memory.md R40; the canonical form is `Memory.wf` of Machine/Ops.lean). -/
abbrev Memory := List Host.Cell

/-- The state. -/
structure State where
  /-- `V[0..15]` (R21, R22). -/
  v : Vector Byte 16
  /-- `I` (R23). -/
  i : Word
  /-- `PC` (R24). -/
  pc : Word
  /-- `stack[0..15]` (R25). -/
  stack : Vector Word 16
  /-- `SP`, the number of entries in use (R25). -/
  sp : Byte
  /-- `DT`, the delay timer (R26). -/
  dt : Byte
  /-- `ST`, the sound timer (R26). -/
  st : Byte
  /-- `fb` (R27). -/
  fb : Framebuffer
  /-- `drawFlag` (R28). -/
  drawFlag : Bool
  /-- `keys`: bit `k` is set when key `k` is pressed (R29). -/
  keys : BitVec 16
  /-- `IR`, the current instruction (R30). -/
  ir : Word
  /-- `halt` (R31). -/
  halt : Halt
  /-- `fault_addr` (R31). -/
  faultAddr : BitVec 17
  /-- `mem` (spec/20_memory.md R40). -/
  mem : Memory
  /-- The model's own: the open parameters FONT, P_VCLIP, P_FLAG_LAST. No step writes it (assumption 3). -/
  params : Params
  /-- The model's own: how many random bytes have been drawn (assumption 2). -/
  draws : Nat
  /-- The model's own: the events known to be waiting at the ports, oldest first (assumption 1). -/
  events : List Event
  /-- The model's own: how many events have been taken from the free schedule `Config.schedule`, which
  goes on for ever once no event waits (spec/40_cycle_and_events.md R90; assumption 1). -/
  scheduled : Nat
  /-- The model's own: whether a machine exists. False only after a `Reset(rom)` that failed with
  `RomTooLarge` (spec/60_exceptions.md R185: "It is not a state of the machine: there is no machine");
  the other fields then stand for nothing (assumption 8). -/
  created : Bool
  deriving DecidableEq, Repr

/-- Why a step ends in a fault. -/
inductive Fault where
  /-- Raised by `2NNN` and `00EE` where SP is above 16, a value R25 says SP never holds; no step from a
  state with SP at most 16 raises it. Safe: the model stops (assumption 7). -/
  | stackIndexOutOfRange
  deriving DecidableEq, Repr

/-- Why a step is refused. -/
inductive Refusal where
  /-- Raised by `exec` alone, for an instruction that has no meaning yet. Safe. -/
  | notModelled (mnemonic : String)
  /-- Raised by the event `FrameAck` where `drawFlag` is false: the event is not enabled there
  (spec/40_cycle_and_events.md R89). Safe: no execution of the hardware holds it (assumption 9). -/
  | frameAckNotEnabled
  /-- Raised by every event but `Reset` where there is no machine, after a `Reset` that failed: "no event
  other than another `Reset` is accepted" (spec/60_exceptions.md R185). Safe: no execution of the
  hardware holds it (assumption 8). -/
  | noMachine
  deriving DecidableEq, Repr

/-- The machine right after `Reset` with an empty ROM (R34, R210). Memory lists nothing: it holds the
font and zeros, which is what an unlisted address reads as (assumption 18). PC and the cleared screen
are ZC8's; every other value is the spec's decision D14 or the model's. DESIGN CHOICE; unsafe;
assumptions 1, 3, 5. -/
def State.reset : State where
  v := Vector.replicate 16 0
  i := 0
  pc := 0x200
  stack := Vector.replicate 16 0
  sp := 0
  dt := 0
  st := 0
  fb := Vector.replicate 32 (Vector.replicate 64 false)
  drawFlag := true
  keys := 0
  ir := 0
  halt := .none
  faultAddr := 0
  mem := []
  params := Config.defaultParams
  draws := 0
  events := []
  scheduled := 0
  created := true

end Sys2Proof.Machine
end

