-- ==== Sys2Proof/Machine/Ops.lean ====
section
/-!
DEFINITION. The named operations on the state: registers, memory (spec/20_memory.md), the stack
(spec/10_state.md R25), the fatal entry (spec/60_exceptions.md R187), the fetch
(spec/40_cycle_and_events.md R84), the framebuffer.
-/

namespace Sys2Proof.Machine

open Sys2Proof

/-- The outcome of an instruction or a step. -/
abbrev Result := Host.Outcome State Fault Refusal

/-! ### V registers (R21) -/

/-- `V[x]`. Every 4-bit index names a register: there is no register-index fault (R21). -/
def State.readV (s : State) (x : Nibble) : Byte := s.v[x.toNat]'x.isLt

/-- `V[x] <- b`. -/
def State.writeV (s : State) (x : Nibble) (b : Byte) : State :=
  { s with v := s.v.set x.toNat b x.isLt }

/-- The flag register VF = `V[0xF]` (R22). -/
def vf : Nibble := 0xF

/-! ### Memory (R40 to R48) -/

/-- What address `a` reads as where memory lists nothing: the reset contents without a ROM, that is
`FONT` at 0x000..0x04F and zero above (R34, R41). -/
def resetByte (p : Params) (a : Nat) : Byte :=
  if h : a < 80 then p.font[a] else 0

/-- The byte listed for address `a`, if any. -/
def Memory.find (a : Nat) : Memory → Option Byte
  | [] => none
  | (b, v) :: m => if a = b then some v else Memory.find a m

/-- List `v` at address `a`, keeping the addresses rising. -/
def Memory.insert (a : Nat) (v : Byte) : Memory → Memory
  | [] => [(a, v)]
  | (b, w) :: m =>
    if a < b then (a, v) :: (b, w) :: m
    else if a = b then (a, v) :: m
    else (b, w) :: Memory.insert a v m

/-- List nothing at address `a`. -/
def Memory.erase (a : Nat) : Memory → Memory
  | [] => []
  | (b, w) :: m => if a = b then m else (b, w) :: Memory.erase a m

/-- The canonical form: addresses strictly rising and inside 0..4095, and no entry equal to what an
unlisted address reads as. -/
abbrev Memory.wf (p : Params) (m : Memory) : Prop :=
  m.Pairwise (fun c d => c.1 < d.1) ∧ ∀ c ∈ m, c.1 < 4096 ∧ c.2 ≠ resetByte p c.1

/-- `mem[a]` (R8, R40). The accesses of instructions reach it only after their range check. -/
def State.readByte (s : State) (a : Nat) : Byte :=
  (Memory.find a s.mem).getD (resetByte s.params a)

/-- `mem[a] <- v` for `a ≤ 4095`; an address above 4095 writes nothing (R43). -/
def State.storeByte (s : State) (a : Nat) (v : Byte) : State :=
  { s with
    mem :=
      if a ≤ 4095 then
        if v = resetByte s.params a then Memory.erase a s.mem else Memory.insert a v s.mem
      else s.mem }

/-- Store bytes at `a`, `a + 1`, ... in ascending order (R47); addresses are naturals, never wrapped. -/
def State.storeBytes (s : State) (a : Nat) : List Byte → State
  | [] => s
  | b :: bs => (s.storeByte a b).storeBytes (a + 1) bs

/-- The bytes at `a .. a + len - 1`. -/
def State.readBytes (s : State) (a len : Nat) : List Byte :=
  (List.range len).map fun k => s.readByte (a + k)

/-- `CheckRange(addr, len)` (R48): the lowest out-of-range address of a range that leaves 0..4095, or
none where the range is inside (or empty). A single data access is `len = 1` (R42). -/
def checkRange (addr len : Nat) : Option (BitVec 17) :=
  if 1 ≤ len ∧ addr + len - 1 > 4095 then some (BitVec.ofNat 17 (max addr 4096)) else none

/-! ### The fatal entry (R187)

There is no return from it: a halted machine is left only by `Reset` (R188). -/

/-- `halt <- cause; fault_addr <- addr`, and nothing else. At execute time IR and PC already hold the
faulting instruction and the advanced PC (R187); at fetch time neither was written. -/
def State.fatal (s : State) (cause : Halt) (addr : BitVec 17) : State :=
  { s with halt := cause, faultAddr := addr }

/-- `raise` (R8): the instruction ends in the fatal entry, with no other effect. -/
def raise (cause : Halt) (addr : BitVec 17) (s : State) : Result := .next (s.fatal cause addr)

/-- Validate `addr .. addr + len - 1` as a whole, then go to `t`; raise `DataOutOfRange` from `s`, with
no partial effect, where the range leaves memory (R48, R182). The check is made at the access, not where
I was computed (D7; assumptions 6, 16). -/
def withRange (addr len : Nat) (s t : State) : Result :=
  match checkRange addr len with
  | some bad => raise .dataOutOfRange bad s
  | none => .next t

/-! ### The stack (R25) -/

/-- `stack[SP] <- w; SP <- SP + 1`, where SP indexes an entry. -/
def State.push (s : State) (w : Word) : Option State :=
  if h : s.sp.toNat < 16 then
    some { s with stack := s.stack.set s.sp.toNat w h, sp := s.sp + 1 }
  else none

/-- `SP <- SP - 1; PC <- stack[SP]`, where the decremented SP indexes an entry. The entry is not
erased (R100). -/
def State.popPc (s : State) : Option State :=
  if h : (s.sp - 1).toNat < 16 then
    some { s with sp := s.sp - 1, pc := s.stack[(s.sp - 1).toNat] }
  else none

/-! ### The fetch (R44, R84) -/

/-- `MemRead(PC, 2)`: the two bytes at PC, big-endian, where both are inside memory; PC is not checked
before (D7; assumption 16) and need not be even (D31; assumption 25). -/
def State.fetch (s : State) : Option Word :=
  if s.pc.toNat + 1 ≤ 4095 then
    some (wordOfBytes (s.readByte s.pc.toNat) (s.readByte (s.pc.toNat + 1)))
  else none

/-- `IR <- op; PC <- PC + 2`, before any effect of the instruction (R84). -/
def State.fetched (s : State) (op : Word) : State := { s with ir := op, pc := s.pc + 2 }

/-- The lowest out-of-range address of a failed fetch: `max(PC, 4096)` (R44, R181). -/
def State.fetchFaultAddr (s : State) : BitVec 17 := BitVec.ofNat 17 (max s.pc.toNat 4096)

/-! ### The framebuffer (R27) -/

/-- `fb[y][x]`. -/
def Framebuffer.cell (fb : Framebuffer) (y : Fin 32) (x : Fin 64) : Bool :=
  (fb[y.val]'y.isLt)[x.val]'x.isLt

/-- `fb[y][x] <- on`. -/
def Framebuffer.setCell (fb : Framebuffer) (y : Fin 32) (x : Fin 64) (on : Bool) : Framebuffer :=
  fb.set y.val ((fb[y.val]'y.isLt).set x.val on x.isLt) y.isLt

/-- The cleared framebuffer. -/
def Framebuffer.blank : Framebuffer := Vector.replicate 32 (Vector.replicate 64 false)

/-! ### Placing an instruction for the next step -/

/-- The state with the two bytes of `op` stored where the next step fetches, with a `CpuTick` the one event
waiting, so that the next step is an instruction cycle whatever the schedule, and with what keeps that cycle
from fetching there removed: a halt, a machine that does not exist, a PC whose fetch would leave memory
(assumption 17). -/
def State.placeWord (s : State) (op : Word) : State :=
  let pc := if s.pc.toNat + 1 ≤ 4095 then s.pc else 0x200
  { s with pc := pc, halt := .none, events := [.cpuTick], created := true }.storeBytes pc.toNat (bytesOfWord op)

end Sys2Proof.Machine
end

