-- ==== Sys2Proof/Machine/Flags.lean ====
section
/-!
DEFINITION. The results and flags of the ALU (spec/43_alu.md R120, R127 to R131) and the write of both.
The flag is computed from the operands read before any write; results wrap modulo 256.
-/

namespace Sys2Proof.Machine

open Sys2Proof

/-- The flag value 0 or 1 (R22: "Every flag value written is 0 or 1"). -/
def flagByte (b : Bool) : Byte := if b then 1 else 0

/-- `8XY4`: 1 if the sum exceeds 255 (R127). -/
def addFlag (a b : Byte) : Byte := flagByte (decide (a.toNat + b.toNat > 255))

/-- `8XY5` and, with the operands exchanged, `8XY7`: 1 if `a > b`, strictly (R128, R130). -/
def subFlag (a b : Byte) : Byte := flagByte (decide (a.toNat > b.toNat))

/-- `8XY6`: bit 0 before the shift (R129). -/
def shrFlag (a : Byte) : Byte := flagByte (a.getLsbD 0)

/-- `8XYE`: bit 7 before the shift, as 0 or 1 (R131). -/
def shlFlag (a : Byte) : Byte := flagByte (a.getLsbD 7)

/-- `Commit2(X, result, flag)` (R120): which write comes last, and so survives at X = 0xF, is the
parameter P_FLAG_LAST. -/
def State.commit2 (s : State) (x : Nibble) (result flag : Byte) : State :=
  if s.params.flagLast then (s.writeV x result).writeV vf flag
  else (s.writeV vf flag).writeV x result

end Sys2Proof.Machine
end

