-- ==== Sys2Proof/Machine/Operands.lean ====
section
/-!
DEFINITION. The operand forms (spec/30_encoding.md R63): zero-extended immediates, the key named by a
register, the range of V registers of `FX55`/`FX65`, the sprite rows of `DXYN`, the decimal digits of
`FX33`, and the free random byte of `CXKK`.
-/

namespace Sys2Proof.Machine

open Sys2Proof

/-- `zext_16(NNN)`. -/
def addrWord (nnn : Addr12) : Word := nnn.setWidth 16

/-- `zext_16(b)`. -/
def byteWord (b : Byte) : Word := b.setWidth 16

/-- The key whose code is `code` is in the pressed-key set; a code above 15 never is (R115, D16). -/
def State.pressed (s : State) (code : Byte) : Bool :=
  decide (code.toNat < 16) && s.keys.getLsbD code.toNat

/-- `V[0], ..., V[x]` (R144). -/
def State.firstV (s : State) (x : Nibble) : List Byte := s.v.toList.take (x.toNat + 1)

/-- `for k in 0 .. n - 1: V[k] <- mem[a + k]`, ascending (R145). -/
def State.loadV (s : State) (a : Nat) : Nat → State
  | 0 => s
  | n + 1 => (s.loadV a n).writeV (BitVec.ofNat 4 n) (s.readByte (a + n))

/-- The hundreds, tens and ones digits of `v`, each as a byte (R143). -/
def bcdDigits (v : Byte) : List Byte :=
  [BitVec.ofNat 8 (v.toNat / 100), BitVec.ofNat 8 (v.toNat / 10 % 10), BitVec.ofNat 8 (v.toNat % 10)]

/-- `draw rnd`: the next free random byte (R132, D17; assumption 2). -/
def State.randomByte (s : State) : Byte := Config.rnd s.draws

/-- `PC <- PC + 2` on the already advanced PC where `c` holds (R110). -/
def State.skipIf (s : State) (c : Bool) : State :=
  { s with pc := if c then s.pc + 2 else s.pc }

end Sys2Proof.Machine
end

