-- ==== Sys2Proof/Machine/Alu.lean ====
section
/-!
DEFINITION. Register load, arithmetic, logic, shift and random (spec/43_alu.md). Operands are read from
the state before the instruction (R120); only the five instructions that call `commit2` write the flag.
-/

namespace Sys2Proof.Machine

open Sys2Proof

/-- `6XKK` (R121). -/
def execLdImm (x : Nibble) (kk : Byte) (s : State) : Result := .next (s.writeV x kk)

/-- `7XKK` (R122): wraps modulo 256, no flag. -/
def execAddImm (x : Nibble) (kk : Byte) (s : State) : Result :=
  .next (s.writeV x (s.readV x + kk))

/-- `8XY0` (R123). -/
def execLdReg (x y : Nibble) (s : State) : Result := .next (s.writeV x (s.readV y))

/-- `8XY1` (R124). -/
def execOr (x y : Nibble) (s : State) : Result := .next (s.writeV x (s.readV x ||| s.readV y))

/-- `8XY2` (R125). -/
def execAnd (x y : Nibble) (s : State) : Result := .next (s.writeV x (s.readV x &&& s.readV y))

/-- `8XY3` (R126). -/
def execXor (x y : Nibble) (s : State) : Result := .next (s.writeV x (s.readV x ^^^ s.readV y))

/-- `8XY4` (R127). -/
def execAddReg (x y : Nibble) (s : State) : Result :=
  .next (s.commit2 x (s.readV x + s.readV y) (addFlag (s.readV x) (s.readV y)))

/-- `8XY5` (R128). -/
def execSub (x y : Nibble) (s : State) : Result :=
  .next (s.commit2 x (s.readV x - s.readV y) (subFlag (s.readV x) (s.readV y)))

/-- `8XY6` (R129): `Y` is not used (R68). -/
def execShr (x : Nibble) (s : State) : Result :=
  .next (s.commit2 x (s.readV x >>> 1) (shrFlag (s.readV x)))

/-- `8XY7` (R130). -/
def execSubn (x y : Nibble) (s : State) : Result :=
  .next (s.commit2 x (s.readV y - s.readV x) (subFlag (s.readV y) (s.readV x)))

/-- `8XYE` (R131): `Y` is not used (R68). -/
def execShl (x : Nibble) (s : State) : Result :=
  .next (s.commit2 x (s.readV x <<< 1) (shlFlag (s.readV x)))

/-- `CXKK` (R132): the free byte under the mask; the draw is counted. -/
def execRnd (x : Nibble) (kk : Byte) (s : State) : Result :=
  .next { s.writeV x (s.randomByte &&& kk) with draws := s.draws + 1 }

end Sys2Proof.Machine
end

