-- ==== Sys2Proof/Machine/Display.lean ====
section
/-!
DEFINITION. The display instructions (spec/45_display.md): CLS and DRW. They alone write the framebuffer
and set `drawFlag`. The loops of R151's pseudocode carry the framebuffer and the collision bit.
-/

namespace Sys2Proof.Machine

open Sys2Proof

/-- What R151's loops carry: the framebuffer and `collision`. -/
structure Drawing where
  fb : Framebuffer
  collision : Bool
  deriving DecidableEq, Repr

/-- `if fb[y][x]: collision <- 1`, then `fb[y][x] <- not fb[y][x]`. -/
def toggleCell (y : Fin 32) (x : Fin 64) (d : Drawing) : Drawing where
  fb := d.fb.setCell y x (!d.fb.cell y x)
  collision := d.collision || d.fb.cell y x

/-- Pixel `b` of a sprite row, bit `7 - b` of its byte, at column `(x0 + b) mod 64` (R151, R152). -/
def drawPixel (y : Fin 32) (x0 : Nat) (row : Byte) (d : Drawing) (b : Nat) : Drawing :=
  if row.getLsbD (7 - b) then toggleCell y (Fin.ofNat 64 (x0 + b)) d else d

/-- One sprite row at row index `y` of the sprite's placement: past row 31 it is dropped under
P_VCLIP and wrapped otherwise (R152). -/
def drawRow (vclip : Bool) (x0 y : Nat) (row : Byte) (d : Drawing) : Drawing :=
  if y > 31 ∧ vclip = true then d
  else (List.range 8).foldl (drawPixel (Fin.ofNat 32 y) x0 row) d

/-- The sprite rows from row index `y` on, top to bottom. -/
def drawRows (vclip : Bool) (x0 y : Nat) : List Byte → Drawing → Drawing
  | [], d => d
  | row :: rows, d => drawRows vclip x0 (y + 1) rows (drawRow vclip x0 y row d)

/-- The framebuffer and collision bit after the sprite at I, `n` rows high, is drawn with its top-left
corner at (`V[x] mod 64`, `V[y] mod 32`), both read before VF is written (R151). -/
def State.drawSprite (s : State) (x y n : Nibble) : Drawing :=
  drawRows s.params.vclip ((s.readV x).toNat % 64) ((s.readV y).toNat % 32)
    (s.readBytes s.i.toNat n.toNat) ⟨s.fb, false⟩

/-- `00E0` (R150). -/
def execCls (s : State) : Result := .next { s with fb := Framebuffer.blank, drawFlag := true }

/-- `DXYN` (R151). With `N = 0` there is no access and no check (R48). -/
def execDrw (x y n : Nibble) (s : State) : Result :=
  withRange s.i.toNat n.toNat s
    { s.writeV vf (flagByte (s.drawSprite x y n).collision) with
      fb := (s.drawSprite x y n).fb
      drawFlag := true }

end Sys2Proof.Machine
end

