-- ==== Sys2Proof/Machine/Flow.lean ====
section
/-!
DEFINITION. Control transfer (spec/41_flow.md): RET, JP, CALL, JP V0. PC has already advanced (R85).
-/

namespace Sys2Proof.Machine

open Sys2Proof

/-- `00EE` (R100, R184). The fault is for SP above 16, which no run reaches (assumption 7). -/
def execRet (s : State) : Result :=
  if s.sp = 0 then raise .stackUnderflow 0 s
  else match s.popPc with
    | some t => .next t
    | none => .fault .stackIndexOutOfRange

/-- `1NNN` (R101). -/
def execJp (nnn : Addr12) (s : State) : Result := .next { s with pc := addrWord nnn }

/-- `2NNN` (R102, R183): pushes the advanced PC. The fault is for SP above 16 (assumption 7). -/
def execCall (nnn : Addr12) (s : State) : Result :=
  if s.sp = 16 then raise .stackOverflow 0 s
  else match s.push s.pc with
    | some t => .next { t with pc := addrWord nnn }
    | none => .fault .stackIndexOutOfRange

/-- `BNNN` (R103): `V[0] + NNN` in 16 bits, not wrapped to 12. -/
def execJpV0 (nnn : Addr12) (s : State) : Result :=
  .next { s with pc := byteWord (s.readV 0) + addrWord nnn }

end Sys2Proof.Machine
end

