-- ==== Sys2Proof/Machine/Index.lean ====
section
/-!
DEFINITION. The index register and memory transfers (spec/44_index_memory.md). None writes the flag, and
`FX33`, `FX55`, `FX65` leave I as it is. The effective address is `I + k` as a natural number (R47).
-/

namespace Sys2Proof.Machine

open Sys2Proof

/-- `ANNN` (R140). -/
def execLdI (nnn : Addr12) (s : State) : Result := .next { s with i := addrWord nnn }

/-- `FX1E` (R141): modulo 65536, not clamped, no flag. -/
def execAddI (x : Nibble) (s : State) : Result :=
  .next { s with i := s.i + byteWord (s.readV x) }

/-- `FX29` (R142): the whole byte times five. -/
def execLdF (x : Nibble) (s : State) : Result :=
  .next { s with i := byteWord (s.readV x) * 5 }

/-- `FX33` (R143). -/
def execLdB (x : Nibble) (s : State) : Result :=
  withRange s.i.toNat 3 s (s.storeBytes s.i.toNat (bcdDigits (s.readV x)))

/-- `FX55` (R144). -/
def execLdMemVx (x : Nibble) (s : State) : Result :=
  withRange s.i.toNat (x.toNat + 1) s (s.storeBytes s.i.toNat (s.firstV x))

/-- `FX65` (R145). -/
def execLdVxMem (x : Nibble) (s : State) : Result :=
  withRange s.i.toNat (x.toNat + 1) s (s.loadV s.i.toNat (x.toNat + 1))

end Sys2Proof.Machine
end

