-- ==== Sys2Proof/Machine/Skip.lean ====
section
/-!
DEFINITION. The conditional skips (spec/42_skip.md): each is R110's skip under its condition.
-/

namespace Sys2Proof.Machine

open Sys2Proof

/-- `3XKK` (R111). -/
def execSeImm (x : Nibble) (kk : Byte) (s : State) : Result :=
  .next (s.skipIf (decide (s.readV x = kk)))

/-- `4XKK` (R112). -/
def execSneImm (x : Nibble) (kk : Byte) (s : State) : Result :=
  .next (s.skipIf (decide (s.readV x ≠ kk)))

/-- `5XY0` (R113). -/
def execSeReg (x y : Nibble) (s : State) : Result :=
  .next (s.skipIf (decide (s.readV x = s.readV y)))

/-- `9XY0` (R114). -/
def execSneReg (x y : Nibble) (s : State) : Result :=
  .next (s.skipIf (decide (s.readV x ≠ s.readV y)))

/-- `EX9E` (R115). -/
def execSkp (x : Nibble) (s : State) : Result := .next (s.skipIf (s.pressed (s.readV x)))

/-- `EXA1` (R116). -/
def execSknp (x : Nibble) (s : State) : Result := .next (s.skipIf (!s.pressed (s.readV x)))

end Sys2Proof.Machine
end

