-- ==== Sys2Proof/Machine/Timers.lean ====
section
/-!
DEFINITION. The timer instructions (spec/46_timers.md) and the 60 Hz step (spec/40_cycle_and_events.md R86).
-/

namespace Sys2Proof.Machine

open Sys2Proof

/-- `FX07` (R160). -/
def execLdVxDt (x : Nibble) (s : State) : Result := .next (s.writeV x s.dt)

/-- `FX15` (R161). -/
def execLdDtVx (x : Nibble) (s : State) : Result := .next { s with dt := s.readV x }

/-- `FX18` (R162). -/
def execLdStVx (x : Nibble) (s : State) : Result := .next { s with st := s.readV x }

/-- One step of a down-counter that stops at 0 (R26, R86). -/
def countDown (t : Byte) : Byte := if t = 0 then 0 else t - 1

/-- `TimerTick` (R86), halted or not. -/
def State.timerTick (s : State) : State := { s with dt := countDown s.dt, st := countDown s.st }

end Sys2Proof.Machine
end

