-- ==== Sys2Proof/Machine/Unimpl.lean ====
section
/-!
DEFINITION. The unimplemented encodings (spec/47_unimplemented.md R170): the execute step changes no state
at all. The report is an output of the cycle, `unimplReport` of Machine/Ports.lean, and leaves no state
behind (assumption 10). One definition per row of the table.
-/

namespace Sys2Proof.Machine

open Sys2Proof

/-- The execute step of every unimplemented encoding (R170). -/
def unimplementedNop (s : State) : Result := .next s

/-- `8XY8` (R170). -/
def execUnimpl88 (s : State) : Result := unimplementedNop s
/-- `8XY9` (R170). -/
def execUnimpl89 (s : State) : Result := unimplementedNop s
/-- `8XYA` (R170). -/
def execUnimpl8A (s : State) : Result := unimplementedNop s
/-- `8XYB` (R170). -/
def execUnimpl8B (s : State) : Result := unimplementedNop s
/-- `8XYC` (R170). -/
def execUnimpl8C (s : State) : Result := unimplementedNop s
/-- `8XYD` (R170). -/
def execUnimpl8D (s : State) : Result := unimplementedNop s
/-- `8XYF` (R170). -/
def execUnimpl8F (s : State) : Result := unimplementedNop s
/-- `0NNN` (R170, R171). -/
def execUnimpl0 (s : State) : Result := unimplementedNop s
/-- `EXKK` (R170). -/
def execUnimplE (s : State) : Result := unimplementedNop s
/-- `FXKK` (R170, R171). -/
def execUnimplF (s : State) : Result := unimplementedNop s

end Sys2Proof.Machine
end

