-- ==== Sys2Proof/Machine/Cycle.lean ====
section
/-!
DEFINITION. The events (spec/40_cycle_and_events.md): the instruction cycle, the 60 Hz step, the key and
frame events, reset; and which event is next (R90; assumption 1).
-/

namespace Sys2Proof.Machine

open Sys2Proof

/-- `CpuTick` (R83, R84, R85): nothing where halted; else fetch, advance PC, execute. A fetch that leaves
memory is the fatal condition `FetchOutOfRange`, with PC and IR unchanged (R181). -/
def cpuTick (s : State) : Result :=
  match s.halt with
  | .none =>
    match s.fetch with
    | some op => exec (decode op) (s.fetched op)
    | none => raise .fetchOutOfRange s.fetchFaultAddr s
  | .fetchOutOfRange | .dataOutOfRange | .stackOverflow | .stackUnderflow => .next s

/-- `KeySet(k)` (R88). -/
def State.keySet (s : State) (k : Nibble) : State :=
  { s with keys := s.keys ||| BitVec.twoPow 16 k.toNat }

/-- `KeyClear(k)` (R88). -/
def State.keyClear (s : State) (k : Nibble) : State :=
  { s with keys := s.keys &&& ~~~BitVec.twoPow 16 k.toNat }

/-- `FrameAck` (R89): enabled only where `drawFlag` is set (assumption 9). -/
def frameAck (s : State) : Result :=
  if s.drawFlag then .next { s with drawFlag := false } else .refused .frameAckNotEnabled

/-- The state a `Reset` starts from (R210): nothing of the old machine is left, and the model's own fields
(the parameters, the count of draws, the events still waiting and the schedule's count) go on
(assumption 17). -/
def State.cleared (s : State) : State :=
  { State.reset with
    params := s.params, draws := s.draws, events := s.events, scheduled := s.scheduled }

/-- `Reset(rom)` (R210, R212): the state after reset with the ROM bytes at 0x200 upward. A ROM of more than
3584 bytes makes no machine (R185); the failure is reported by `constructionReport` of Machine/Ports.lean
(assumption 8). -/
def construct (rom : List Byte) (s : State) : Result :=
  if rom.length ≤ 3584 then .next (s.cleared.storeBytes 0x200 rom)
  else .next { s.cleared with created := false }

/-- An event that acts on a machine: where there is none it is not accepted (R185; assumption 8). -/
def onMachine (s : State) (r : Result) : Result :=
  if s.created then r else .refused .noMachine

/-- One event, atomically (R81). `Reset` is the only one accepted where there is no machine. -/
def runEvent (e : Event) (s : State) : Result :=
  match e with
  | .reset rom => construct rom s
  | .cpuTick => onMachine s (cpuTick s)
  | .timerTick => onMachine s (.next s.timerTick)
  | .keySet k => onMachine s (.next (s.keySet k))
  | .keyClear k => onMachine s (.next (s.keyClear k))
  | .frameAck => onMachine s (frameAck s)

/-- The next event and the state with it taken: the oldest event waiting, and where none is the next one of
the free schedule. No rule fixes the order and none ends it, so every interleaving, finite or unending, is a
run (R81, R90; assumption 1). -/
def State.takeEvent (s : State) : Event × State :=
  match s.events with
  | [] => (Config.schedule s.scheduled, { s with scheduled := s.scheduled + 1 })
  | e :: rest => (e, { s with events := rest })

/-- The next event takes place (R80, R90). -/
def nextEvent (s : State) : Result := runEvent s.takeEvent.1 s.takeEvent.2

end Sys2Proof.Machine
end

