-- ==== Sys2Proof/Machine/Step.lean ====
section
/-!
DEFINITION. `step`: one event of the machine; and the placing of an instruction where the next step
fetches it.
-/

namespace Sys2Proof.Machine

open Sys2Proof

/-- One step is one event (spec/40_cycle_and_events.md R80, R81, R90; assumption 1). -/
def step (s : State) : Host.Outcome State Fault Refusal := nextEvent s

/-- `s` with the instruction whose bits are `w` stored where the next step fetches it. Every instruction
is 16 bits (spec/30_encoding.md R60), so the bits above `nbits` are zero and none is beyond the word. -/
def State.withFetchWord (s : State) (nbits w : Nat) : State :=
  s.placeWord (BitVec.ofNat 16 (w % 2 ^ nbits))

end Sys2Proof.Machine
end

