-- ==== Sys2Proof/Machine/Ports.lean ====
section
/-!
DEFINITION. The outputs (spec/40_cycle_and_events.md R82, R87): functions of the state, valid between
events, the report of one `CpuTick` and that of one `Reset`. They are outputs of a machine: where `created`
is false only the report of a `Reset` means anything (assumption 8).
-/

namespace Sys2Proof.Machine

open Sys2Proof

/-- The port `fb`: cell number `y * 64 + x` (R82, D25; assumption 24). -/
def fbPort (s : State) (n : Fin 2048) : Bool :=
  s.fb.cell (Fin.ofNat 32 (n.val / 64)) (Fin.ofNat 64 n.val)

/-- The port `draw_flag`. -/
def drawFlagPort (s : State) : Bool := s.drawFlag

/-- The port `sound_timer`. -/
def soundTimerPort (s : State) : Byte := s.st

/-- The port `sound_on`: `ST ≠ 0` (R87). -/
def soundOn (s : State) : Bool := s.st != 0

/-- The start edge of an event from `s` to `t`: ST goes from 0 to non-zero (R87). -/
def soundStarts (s t : State) : Bool := !soundOn s && soundOn t

/-- The stop edge of an event from `s` to `t`: ST goes from non-zero to 0 (R87). -/
def soundStops (s t : State) : Bool := soundOn s && !soundOn t

/-- The codes of `halt` (R31, R180). -/
def Halt.code : Halt → BitVec 3
  | .none => 0
  | .fetchOutOfRange => 1
  | .dataOutOfRange => 2
  | .stackOverflow => 3
  | .stackUnderflow => 4

/-- The port `halt_cause`. -/
def haltCausePort (s : State) : BitVec 3 := s.halt.code

/-- The port `fault_addr`. -/
def faultAddrPort (s : State) : BitVec 17 := s.faultAddr

/-- The report a `CpuTick` from `s` emits on the ports `unimpl`, `unimpl_op`: the instruction word where
the machine is not halted, the fetch succeeds and the word is an unimplemented encoding (R170). -/
def unimplReport (s : State) : Option Word :=
  match s.halt, s.fetch with
  | .none, some op => if (decode op).unimplemented then some op else none
  | _, _ => none

/-- The report of the next step: only a `CpuTick` of a machine that exists reports. -/
def stepReport (s : State) : Option Word :=
  if s.created = true ∧ s.takeEvent.1 = .cpuTick then unimplReport s.takeEvent.2 else none

/-- What `Reset(rom)` reports to its caller: code 5, `RomTooLarge`, for a ROM of more than 3584 bytes
(spec/60_exceptions.md R180, R185; the number is D8). -/
def resetReport (rom : List Byte) : Option (BitVec 3) :=
  if rom.length ≤ 3584 then none else some 5

/-- The construction error the next step reports: only a `Reset` reports one. -/
def constructionReport (s : State) : Option (BitVec 3) :=
  match s.takeEvent.1 with
  | .reset rom => resetReport rom
  | .cpuTick | .timerTick | .keySet _ | .keyClear _ | .frameAck => none

end Sys2Proof.Machine
end

