-- ==== Sys2Proof/Safety.lean ====
section
/-!
DEFINITION. The terms the statements use: what a legal state is, what an instruction may write, and which
framebuffer cells a sprite covers.
-/

namespace Sys2Proof.Machine

open Sys2Proof

/-! ### Legal states -/

/-- Memory is in its canonical form. -/
abbrev State.MemOk (s : State) : Prop := Memory.wf s.params s.mem

/-- SP is 0..16 and every entry in use holds what a call pushes, 2..4096 (spec/10_state.md R25,
spec/41_flow.md R100). -/
abbrev State.StackOk (s : State) : Prop :=
  s.sp.toNat ≤ 16 ∧
    ∀ k : Fin 16, k.val < s.sp.toNat → 2 ≤ s.stack[k.val].toNat ∧ s.stack[k.val].toNat ≤ 4096

/-- PC is at most 0x10FE (spec/10_state.md R24). -/
abbrev State.PcOk (s : State) : Prop := s.pc.toNat ≤ 0x10FE

/-- `fault_addr` is an out-of-range address for the two memory causes and 0 otherwise
(spec/10_state.md R31, spec/60_exceptions.md R180). -/
abbrev State.HaltOk (s : State) : Prop :=
  if s.halt = .fetchOutOfRange ∨ s.halt = .dataOutOfRange then
    4096 ≤ s.faultAddr.toNat ∧ s.faultAddr.toNat ≤ 0xFFFF
  else s.faultAddr = 0

/-- The control state is legal. -/
abbrev State.ControlOk (s : State) : Prop := s.StackOk ∧ s.PcOk ∧ s.HaltOk

/-! ### Frames -/

/-- What an instruction may write; everything not named stays. -/
structure Writes where
  v : List Nibble := []
  i : Bool := false
  pc : Bool := false
  stack : Bool := false
  dt : Bool := false
  st : Bool := false
  fb : Bool := false
  drawFlag : Bool := false
  draws : Bool := false
  bytes : List Nat := []

/-- From `s` to `t` nothing changed but what `w` names. IR, `halt`, `fault_addr`, the keys, the
parameters, the waiting events, the schedule's count and whether there is a machine are never named. -/
structure Keeps (w : Writes) (s t : State) : Prop where
  v : ∀ r, r ∉ w.v → t.readV r = s.readV r
  i : w.i = false → t.i = s.i
  pc : w.pc = false → t.pc = s.pc
  stack : w.stack = false → t.sp = s.sp ∧ t.stack = s.stack
  dt : w.dt = false → t.dt = s.dt
  st : w.st = false → t.st = s.st
  fb : w.fb = false → t.fb = s.fb
  drawFlag : w.drawFlag = false → t.drawFlag = s.drawFlag
  draws : w.draws = false → t.draws = s.draws
  bytes : ∀ a, a ∉ w.bytes → t.readByte a = s.readByte a
  keys : t.keys = s.keys
  ir : t.ir = s.ir
  halt : t.halt = s.halt
  faultAddr : t.faultAddr = s.faultAddr
  params : t.params = s.params
  events : t.events = s.events
  scheduled : t.scheduled = s.scheduled
  created : t.created = s.created

/-- The addresses `a .. a + len - 1`, none of them wrapped (spec/20_memory.md R47). -/
def byteRange (a len : Nat) : List Nat := (List.range len).map (a + ·)

/-- The V registers `V[0], ..., V[x]`. -/
def regsUpTo (x : Nibble) : List Nibble := (List.range (x.toNat + 1)).map (BitVec.ofNat 4)

/-- `i` raises `DataOutOfRange` from `s`: `halt` and `fault_addr = max(I, 4096)` are written and nothing
else (spec/60_exceptions.md R182, R187, decisions D8, D9; assumption 6). -/
def RaisesDataOutOfRange (i : Instr) (s : State) : Prop :=
  ∃ addr : BitVec 17, addr.toNat = max s.i.toNat 4096 ∧
    exec i s = .next { s with halt := .dataOutOfRange, faultAddr := addr }

/-! ### Sprites -/

/-- The sprite of `DXYN` has a 1 bit on the cell in row `y`, column `x` (spec/45_display.md R151, R152):
with `r` the sprite row and `b` the pixel that wrapping puts on the cell, the sprite has both, the row
is not dropped by P_VCLIP, and bit `7 - b` of its byte is 1. -/
def State.spriteBit (s : State) (vx vy n : Nibble) (y : Fin 32) (x : Fin 64) : Bool :=
  let x0 := (s.readV vx).toNat % 64
  let y0 := (s.readV vy).toNat % 32
  let r := (y.val + 32 - y0) % 32
  let b := (x.val + 64 - x0) % 64
  decide (r < n.toNat) && decide (b < 8) && !(s.params.vclip && decide (y0 + r > 31)) &&
    (s.readByte (s.i.toNat + r)).getLsbD (7 - b)

end Sys2Proof.Machine
end

