-- ==== Sys2Proof/Certificates/Slice0/Obligations.lean ====
section
/-!
DEFINITION. The statements for the provers, by the spec's files. A statement about a next state gives the
instruction's result, that it answers a next state, and its frame (`Keeps`). `s` is the state the fetch
left: PC is already advanced (spec/40_cycle_and_events.md R85).
-/

open Sys2Proof Sys2Proof.Machine

/-! ### Encoding (spec/30_encoding.md) -/

/-- Every well-formed instruction is read back from its encoding, as a word (R62) and as two bytes, the
high byte first, with what follows left over (R60, R45). Which words stand for which instruction rests on
decisions D2 and D3 (assumption 11). -/
def Obligations.DecodeOfEncode : Prop :=
  ∀ (i : Instr) (rest : List Byte), i.wellFormed = true →
    decode (encode i) = i ∧ decodeBytes (encodeBytes i ++ rest) = .ok (i, rest)

/-- Every word decodes to a well-formed instruction that encodes to the word, but for the low nibble of
families 5 and 9, which the hardware ignores (decision D3; assumption 11). -/
def Obligations.EncodeOfDecode : Prop :=
  ∀ op : Word, (decode op).wellFormed = true ∧
    encode (decode op) =
      if fieldFamily op = 5 ∨ fieldFamily op = 9 then op &&& 0xFFF0 else op

/-- A row of the table of 33 instructions is selected exactly where `op & mask = match` (R65). The masks of
rows 7 and 19 are decision D3 and the second-level keys in the other masks decision D2 (assumption 11). -/
def Obligations.RowSelectedByMaskAndMatch : Prop :=
  ∀ (op : Word) (i : Instr), i.unimplemented = false →
    (op &&& i.row.1 = i.row.2 ↔ (decode op).row = i.row)

/-- The unimplemented words, exhaustively: family 0, 8, 0xE or 0xF with a second-level key that selects no
row (R66; the keys are decision D2, assumption 11). -/
def Obligations.UnimplementedWords : Prop :=
  ∀ op : Word, (decode op).unimplemented = true ↔
    (fieldFamily op = 0x0 ∧ fieldNNN op ∉ [0x0E0, 0x0EE]) ∨
    (fieldFamily op = 0x8 ∧ fieldN op ∈ [0x8, 0x9, 0xA, 0xB, 0xC, 0xD, 0xF]) ∨
    (fieldFamily op = 0xE ∧ fieldKK op ∉ [0x9E, 0xA1]) ∨
    (fieldFamily op = 0xF ∧
      fieldKK op ∉ [0x07, 0x15, 0x18, 0x1E, 0x29, 0x33, 0x55, 0x65])

/-- The don't-care fields: the low nibble of `5XYn` and `9XYn` (R67, decision D3) and `Y` of `8XY6` and
`8XYE` (R68); assumption 11. -/
def Obligations.DontCareFields : Prop :=
  ∀ (x y n : Nibble) (s : State),
    decode (wordXYN 0x5 x y n) = .seReg x y ∧ decode (wordXYN 0x9 x y n) = .sneReg x y ∧
    ∀ y' : Nibble, exec (.shr x y) s = exec (.shr x y') s ∧ exec (.shl x y) s = exec (.shl x y') s

/-- Words written out in spec/95_test_vectors.md section 2 decode to what the section says. `0x5AB3` rests on
decision D3, `0x8AB8`, `0x00E1` and `0xE19F` on decision D2 and `0xF10A` on decisions D2 and D4
(assumption 11). -/
def Obligations.WordsOfTheSpecDecode : Prop :=
  decode 0x1234 = .jp 0x234 ∧ decode 0x4AFF = .sneImm 0xA 0xFF ∧ decode 0x8014 = .addReg 0 1 ∧
  decode 0x8AB7 = .subn 0xA 0xB ∧ decode 0x5AB3 = .seReg 0xA 0xB ∧ decode 0x8AB8 = .unimpl88 0xA 0xB ∧
  decode 0xA214 = .ldI 0x214 ∧ decode 0xC50F = .rnd 5 0x0F ∧ decode 0xD102 = .drw 1 0 2 ∧
  decode 0xE0A1 = .sknp 0 ∧ decode 0xF265 = .ldVxMem 2 ∧ decode 0xF10A = .unimplF 1 0x0A ∧
  decode 0x00E1 = .unimpl0 0x0E1 ∧ decode 0xE19F = .unimplE 1 0x9F

/-! ### Cycle and events (spec/40_cycle_and_events.md) -/

/-- A step takes the oldest waiting event, and the next one of the free schedule where none waits. The queue,
the schedule, which stands for the order R90 leaves open, and its count are the model's own (assumption 1). -/
def Obligations.StepTakesOldestEvent : Prop :=
  ∀ s : State,
    (s.events = [] →
      step s = runEvent (Config.schedule s.scheduled) { s with scheduled := s.scheduled + 1 }) ∧
    ∀ (e : Event) (rest : List Event), s.events = e :: rest →
      step s = runEvent e { s with events := rest }

/-- Where the next event is a `CpuTick`, waiting or from the schedule, a machine exists, runs and the two bytes
at PC decode to `i`, the step is `exec i` on the state `s0` with that event taken, with IR the fetched word and
PC advanced by 2 (R83 to R85; the queue and the schedule are the model's own, assumption 1). -/
def Obligations.StepRunsDecodedInstruction : Prop :=
  ∀ (s s0 : State) (i : Instr) (rest : List Byte),
    s.takeEvent = (.cpuTick, s0) → s0.created = true → s0.halt = .none → s0.pc.toNat + 1 ≤ 4095 →
    decodeBytes (s0.readBytes s0.pc.toNat 2) = .ok (i, rest) →
    step s = exec i { s0 with
      ir := wordOfBytes (s0.readByte s0.pc.toNat) (s0.readByte (s0.pc.toNat + 1))
      pc := s0.pc + 2 }

/-- R83 and R84: `CpuTick` changes and reports nothing where the machine is halted; else a fetch with
`PC + 1 > 4095` raises `FetchOutOfRange` and changes only `halt` and `fault_addr`; else IR is the byte at
PC times 256 plus the byte at PC + 1, PC advances by 2 without wrapping, and the instruction executes. The
record `fault_addr = max(PC, 4096)` is decision D8, and that a fetch fault changes nothing else decision D9
(assumption 6). -/
def Obligations.InstructionCycle : Prop :=
  ∀ s : State,
    (s.halt ≠ .none → cpuTick s = .next s ∧ unimplReport s = none) ∧
    (s.halt = .none → s.pc.toNat + 1 > 4095 →
      ∃ addr : BitVec 17, addr.toNat = max s.pc.toNat 4096 ∧
        cpuTick s = .next { s with halt := .fetchOutOfRange, faultAddr := addr }) ∧
    (s.halt = .none → s.pc.toNat + 1 ≤ 4095 →
      ∃ op : Word,
        op.toNat = (s.readByte s.pc.toNat).toNat * 256 + (s.readByte (s.pc.toNat + 1)).toNat ∧
        (s.pc + 2).toNat = s.pc.toNat + 2 ∧
        cpuTick s = exec (decode op) { s with ir := op, pc := s.pc + 2 })

/-- `TimerTick`: each timer above 0 goes down by 1, a timer at 0 stays, nothing else changes, halted or not
(R86; halted: decision D11, assumption 15). Without a machine the event is not accepted: FailedConstruction. -/
def Obligations.TimerTickCountsDown : Prop :=
  ∀ s : State, s.created = true → ∃ t : State, runEvent .timerTick s = .next t ∧
    t.dt.toNat = s.dt.toNat - 1 ∧ t.st.toNat = s.st.toNat - 1 ∧
    t = { s with dt := t.dt, st := t.st }

/-- `KeySet(k)` adds key `k` to the pressed set and `KeyClear(k)` removes it; no other key and nothing else
changes, halted or not (R88; halted: decision D11, assumption 15). Without a machine the events are not
accepted: FailedConstruction. -/
def Obligations.KeyEventsChangeOneKey : Prop :=
  ∀ (s : State) (k : Nibble), s.created = true →
    (∃ t : State, runEvent (.keySet k) s = .next t ∧ t = { s with keys := t.keys } ∧
      ∀ code : Byte, t.pressed code = (s.pressed code || decide (code.toNat = k.toNat))) ∧
    (∃ t : State, runEvent (.keyClear k) s = .next t ∧ t = { s with keys := t.keys } ∧
      ∀ code : Byte, t.pressed code = (s.pressed code && !decide (code.toNat = k.toNat)))

/-- `FrameAck` clears `drawFlag` and nothing else; it is not enabled where `drawFlag` is false (R89; that
the model refuses it there is assumption 9). Without a machine it is not accepted: FailedConstruction. -/
def Obligations.FrameAckClearsDrawFlag : Prop :=
  ∀ s : State, s.created = true →
    (s.drawFlag = true → runEvent .frameAck s = .next { s with drawFlag := false }) ∧
    (s.drawFlag = false → runEvent .frameAck s = .refused .frameAckNotEnabled)

/-- R87: a start edge of `sound_on` comes only from `FX18` with a non-zero register, a stop edge only from
`TimerTick` at ST = 1 or `FX18` with a zero register (or from a `Reset`, which makes a new machine). The
stop edge by `FX18` the spec marks as derived; that a `Reset` leaves ST at 0 is decision D14
(assumption 5). -/
def Obligations.SoundEdges : Prop :=
  ∀ (e : Event) (s t : State), runEvent e s = .next t →
    (soundStarts s t = true →
      e = .cpuTick ∧ s.halt = .none ∧ ∃ (op : Word) (x : Nibble),
        s.fetch = some op ∧ decode op = .ldStVx x ∧ s.readV x ≠ 0) ∧
    (soundStops s t = true →
      (e = .timerTick ∧ s.st = 1) ∨ (∃ rom, e = .reset rom) ∨
      (e = .cpuTick ∧ s.halt = .none ∧ ∃ (op : Word) (x : Nibble),
        s.fetch = some op ∧ decode op = .ldStVx x ∧ s.readV x = 0))

/-- The end-of-run idiom (R91, decision D21): a jump to itself, once it is the instruction in IR, leaves the
whole state unchanged. -/
def Obligations.SelfJumpChangesNothing : Prop :=
  ∀ (s : State) (nnn : Addr12), s.halt = .none → s.fetch = some (wordA 0x1 nnn) →
    s.ir = wordA 0x1 nnn → s.pc.toNat = nnn.toNat → cpuTick s = .next s

/-! ### Reset (spec/70_reset_and_hazards.md) -/

/-- `Reset(rom)` answers a next state for every ROM, from every state, halted or without a machine: a ROM of
at most 3584 bytes makes a machine and reports nothing; a longer one makes none, sets no `halt` value and
reports code 5 (R185; the number is decision D8; that "no machine" is a state of the model is
assumption 8). -/
def Obligations.RomLengthLimit : Prop :=
  ∀ (rom : List Byte) (s : State),
    (rom.length > 3584 → resetReport rom = some 5 ∧
      ∃ t : State, runEvent (.reset rom) s = .next t ∧ t.created = false ∧ t.halt = .none) ∧
    (rom.length ≤ 3584 → resetReport rom = none ∧
      ∃ t : State, runEvent (.reset rom) s = .next t ∧ t.created = true)

/-- What `Reset(rom)` builds: memory is the font, zeros and the ROM from 0x200, PC is 0x200, the screen is
off (R210); every other register has the value the spec decides (R34, decision D14; assumption 5), and the
model's own fields go on (assumption 17). -/
def Obligations.ResetBuildsTheMachine : Prop :=
  ∀ (rom : List Byte) (s : State), rom.length ≤ 3584 →
    ∃ t : State, runEvent (.reset rom) s = .next t ∧
      (∀ a : Nat, t.readByte a =
        if h : a < 80 then s.params.font[a]
        else if 0x200 ≤ a then rom.getD (a - 0x200) 0
        else 0) ∧
      t.pc = 0x200 ∧ (∀ y x, t.fb.cell y x = false) ∧
      (∀ r, t.readV r = 0) ∧ t.i = 0 ∧ t.sp = 0 ∧ t.dt = 0 ∧ t.st = 0 ∧
      (∀ code, t.pressed code = false) ∧ t.drawFlag = true ∧ t.ir = 0 ∧
      t.halt = .none ∧ t.faultAddr = 0 ∧ t.created = true ∧
      t.params = s.params ∧ t.draws = s.draws ∧ t.events = s.events ∧ t.scheduled = s.scheduled

/-- The state after reset, for every value of the parameters: what ZC8 gives (R34: memory, PC, screen). The
empty ROM is the model's (assumption 17). -/
def Obligations.ResetStateIsTheSpecs : Prop :=
  ∀ p : Params,
    (∀ a : Nat, { State.reset with params := p }.readByte a =
      if h : a < 80 then p.font[a] else 0) ∧
    State.reset.pc = 0x200 ∧ ∀ y x, State.reset.fb.cell y x = false

/-! ### Invariants and whole-machine rules -/

/-- The state after reset is legal. The memory form is the model's (assumption 18), the values of SP, `halt`
and `fault_addr` decision D14 (assumption 5). -/
def Obligations.ResetIsLegal : Prop := State.reset.MemOk ∧ State.reset.ControlOk

/-- Every step keeps memory in its canonical form: addresses rising and inside 0..4095, no entry equal to
what an unlisted address reads as. The form is the model's own (assumption 18); the spec gives the range of
the addresses and the contents it starts from. -/
def Obligations.StepKeepsMemoryCanonical : Prop :=
  ∀ s t : State, s.MemOk → step s = .next t → t.MemOk

/-- Every step keeps SP at most 16, every stack entry in use within 2..4096, PC at most 0x10FE, and
`fault_addr` an out-of-range address exactly under the two memory causes (R24, R25, R31, R100). The bound on PC the spec marks as derived; the
record `fault_addr` is decision D8 (assumption 6). -/
def Obligations.StepKeepsControlLegal : Prop :=
  ∀ s t : State, s.ControlOk → step s = .next t → t.ControlOk

/-- Every instruction, on every operand and in every state whose SP is at most 16, answers a next state. -/
def Obligations.EveryInstructionAnswersANextState : Prop :=
  ∀ (i : Instr) (s : State), s.sp.toNat ≤ 16 → ∃ t : State, exec i s = .next t

/-- With SP at most 16 a step answers a next state, but for a `FrameAck` that is not enabled (assumption 9)
and, where there is no machine, for every event but `Reset` (assumption 8), be the event waiting or from the
schedule (assumption 1). -/
def Obligations.StepStopsOnlyWhereTheSpecSays : Prop :=
  ∀ s : State, s.sp.toNat ≤ 16 →
    (∃ t : State, step s = .next t) ∨
    (s.created = true ∧ s.drawFlag = false ∧ s.takeEvent.1 = .frameAck ∧
      step s = .refused .frameAckNotEnabled) ∨
    (s.created = false ∧
      (∀ rom : List Byte, s.takeEvent.1 ≠ .reset rom) ∧
      step s = .refused .noMachine)

/-- R188: a halted machine never runs again: every `CpuTick` is a no-op, and no event but `Reset` changes
`halt` or `fault_addr`; a `Reset` leaves the halt. The record is decision D8 (assumption 6). -/
def Obligations.HaltedUntilReset : Prop :=
  ∀ (s t : State) (e : Event), s.halt ≠ .none → runEvent e s = .next t →
    (e = .cpuTick → t = s) ∧
    ((∀ rom, e ≠ .reset rom) → t.halt = s.halt ∧ t.faultAddr = s.faultAddr) ∧
    (∀ rom, e = .reset rom → t.halt = .none)

/-- A fatal condition of the execute step is precise: nothing but `halt` and `fault_addr` changes, and only
`2NNN` at SP = 16, `00EE` at SP = 0, and `FX33`, `FX55`, `FX65`, `DXYN` with a range that leaves memory
raise one, each its own (R180, R189; the record and the lack of a partial effect are decisions D8, D9,
assumption 6). -/
def Obligations.FatalEntryIsPrecise : Prop :=
  ∀ (i : Instr) (s t : State), s.halt = .none → exec i s = .next t → t.halt ≠ .none →
    t = { s with halt := t.halt, faultAddr := t.faultAddr } ∧
    ((∃ nnn, i = .call nnn ∧ s.sp = 16 ∧ t.halt = .stackOverflow ∧ t.faultAddr = 0) ∨
     (i = .ret ∧ s.sp = 0 ∧ t.halt = .stackUnderflow ∧ t.faultAddr = 0) ∨
     (t.halt = .dataOutOfRange ∧ t.faultAddr.toNat = max s.i.toNat 4096 ∧ ∃ len : Nat,
       1 ≤ len ∧ s.i.toNat + len - 1 > 4095 ∧
       ((∃ x, i = .ldB x ∧ len = 3) ∨ (∃ x, i = .ldMemVx x ∧ len = x.toNat + 1) ∨
        (∃ x, i = .ldVxMem x ∧ len = x.toNat + 1) ∨ ∃ x y n, i = .drw x y n ∧ len = n.toNat)))

/-- Only `FX33` and `FX55` write memory (R43). -/
def Obligations.OnlyBcdAndRegisterStoreWriteMemory : Prop :=
  ∀ (i : Instr) (s t : State), exec i s = .next t →
    (∀ x, i ≠ .ldB x) → (∀ x, i ≠ .ldMemVx x) → ∀ a : Nat, t.readByte a = s.readByte a

/-- The only instructions that change VF are the five ALU instructions with a flag, `DXYN`, and those that
name VF as their destination (R22). -/
def Obligations.OnlyFlagWritersChangeVF : Prop :=
  ∀ (i : Instr) (s t : State), exec i s = .next t → t.readV vf ≠ s.readV vf →
    (∃ x y, i = .addReg x y ∨ i = .sub x y ∨ i = .shr x y ∨ i = .subn x y ∨ i = .shl x y ∨
      ∃ n, i = .drw x y n) ∨
    (∃ kk, i = .ldImm vf kk ∨ i = .addImm vf kk ∨ i = .rnd vf kk) ∨
    (∃ y, i = .ldReg vf y ∨ i = .orReg vf y ∨ i = .andReg vf y ∨ i = .xorReg vf y) ∨
    i = .ldVxDt vf ∨ i = .ldVxMem vf

/-- The instructions that change I, DT, ST, SP, the stack, PC, the framebuffer and `drawFlag` are those the
state table names (R20, R23 to R28); none sets `drawFlag` to false, and none changes IR or the keys. -/
def Obligations.RegistersChangeOnlyByTheirWriters : Prop :=
  ∀ (i : Instr) (s t : State), exec i s = .next t →
    (t.i ≠ s.i → (∃ nnn, i = .ldI nnn) ∨ ∃ x, i = .addI x ∨ i = .ldF x) ∧
    (t.dt ≠ s.dt → ∃ x, i = .ldDtVx x) ∧
    (t.st ≠ s.st → ∃ x, i = .ldStVx x) ∧
    (t.sp ≠ s.sp → i = .ret ∨ ∃ nnn, i = .call nnn) ∧
    (t.stack ≠ s.stack → ∃ nnn, i = .call nnn) ∧
    (t.pc ≠ s.pc → i = .ret ∨ (∃ nnn, i = .jp nnn ∨ i = .call nnn ∨ i = .jpV0 nnn) ∨
      (∃ x kk, i = .seImm x kk ∨ i = .sneImm x kk) ∨ (∃ x y, i = .seReg x y ∨ i = .sneReg x y) ∨
      ∃ x, i = .skp x ∨ i = .sknp x) ∧
    (t.fb ≠ s.fb ∨ t.drawFlag ≠ s.drawFlag → i = .cls ∨ ∃ x y n, i = .drw x y n) ∧
    (s.drawFlag = true → t.drawFlag = true) ∧ t.ir = s.ir ∧ t.keys = s.keys

/-- What a program cannot see: no instruction's effect on the rest of the state depends on ST, `drawFlag`,
IR, `halt` or `fault_addr` (R26, R28, R30, R31: none of them is read by an instruction). -/
def Obligations.NoInstructionReadsHiddenState : Prop :=
  ∀ (i : Instr) (s t : State) (st : Byte) (flag : Bool) (ir : Word) (halt : Halt) (addr : BitVec 17),
    exec i s = .next t →
    ∃ u : State,
      exec i { s with st := st, drawFlag := flag, ir := ir, halt := halt, faultAddr := addr } = .next u ∧
      u = { t with
        st := u.st, drawFlag := u.drawFlag, ir := u.ir, halt := u.halt, faultAddr := u.faultAddr }

/-- A store to instruction memory is seen by the next fetch: `FX55` with I = PC, `X ≥ 1` makes the next
fetched word `V[0]`, `V[1]` (R52, decision D29; assumption 25). -/
def Obligations.StoredCodeIsFetchedNext : Prop :=
  ∀ (s : State) (x : Nibble), s.MemOk → s.i = s.pc → 1 ≤ x.toNat → s.i.toNat + x.toNat ≤ 4095 →
    ∃ t : State, exec (.ldMemVx x) s = .next t ∧
      t.fetch = some (wordOfBytes (s.readV 0) (s.readV 1))

/-! ### Control transfer (spec/41_flow.md) -/

/-- R100, R184: `00EE` at SP = 0 raises `StackUnderflow` and changes nothing else; else SP goes down by 1
and PC is the entry at the new SP, which is not erased. (What `fault_addr` then holds:
FatalEntryIsPrecise. SP above 16, which R25 says SP never holds: StackPointerAboveSixteenStops.) -/
def Obligations.ReturnPopsTheStack : Prop :=
  ∀ s : State,
    (s.sp = 0 → ∃ addr : BitVec 17,
      exec .ret s = .next { s with halt := .stackUnderflow, faultAddr := addr }) ∧
    ∀ k : Fin 16, s.sp.toNat = k.val + 1 →
      ∃ t : State, exec .ret s = .next t ∧ t.sp.toNat = k.val ∧ t.pc = s.stack[k.val] ∧
        t.stack = s.stack ∧ Keeps { pc := true, stack := true } s t

/-- R101: `1NNN`. -/
def Obligations.JumpSetsPc : Prop :=
  ∀ (s : State) (nnn : Addr12), ∃ t : State, exec (.jp nnn) s = .next t ∧
    t.pc.toNat = nnn.toNat ∧ Keeps { pc := true } s t

/-- R102, R183: `2NNN` at SP = 16 raises `StackOverflow` and changes nothing else; else the advanced PC goes
to `stack[SP]`, SP goes up by 1 and PC is `NNN`. (What `fault_addr` then holds: FatalEntryIsPrecise. SP
above 16, which R25 says SP never holds: StackPointerAboveSixteenStops.) -/
def Obligations.CallPushesTheStack : Prop :=
  ∀ (s : State) (nnn : Addr12),
    (s.sp = 16 → ∃ addr : BitVec 17,
      exec (.call nnn) s = .next { s with halt := .stackOverflow, faultAddr := addr }) ∧
    ∀ k : Fin 16, s.sp.toNat = k.val →
      ∃ t : State, exec (.call nnn) s = .next t ∧ t.stack[k.val] = s.pc ∧
        (∀ j : Fin 16, j ≠ k → t.stack[j.val] = s.stack[j.val]) ∧
        t.sp.toNat = k.val + 1 ∧ t.pc.toNat = nnn.toNat ∧
        Keeps { pc := true, stack := true } s t

/-- R103: `BNNN`, the sum not reduced to 12 bits. -/
def Obligations.JumpWithOffsetAddsV0 : Prop :=
  ∀ (s : State) (nnn : Addr12), ∃ t : State, exec (.jpV0 nnn) s = .next t ∧
    t.pc.toNat = (s.readV 0).toNat + nnn.toNat ∧ Keeps { pc := true } s t

/-- SP above 16, a value R25 says SP never holds and no step reaches (StepKeepsControlLegal): `00EE` and
`2NNN` stop by a fault of the model's own (assumption 7). -/
def Obligations.StackPointerAboveSixteenStops : Prop :=
  ∀ (s : State) (nnn : Addr12), s.sp.toNat > 16 →
    exec .ret s = .fault .stackIndexOutOfRange ∧ exec (.call nnn) s = .fault .stackIndexOutOfRange

/-- spec/95_test_vectors.md S5: a call and then a return, with the stack untouched between, leads to the
instruction after the call and the SP before it. -/
def Obligations.ReturnUndoesCall : Prop :=
  ∀ (s t u : State) (nnn : Addr12), s.sp.toNat < 16 → exec (.call nnn) s = .next t →
    u.sp = t.sp → u.stack = t.stack →
    ∃ w : State, exec .ret u = .next w ∧ w.pc = s.pc ∧ w.sp = s.sp

/-! ### Skips (spec/42_skip.md) -/

/-- R111, R112: `3XKK` and `4XKK`. -/
def Obligations.SkipOnByte : Prop :=
  ∀ (s : State) (x : Nibble) (kk : Byte),
    (∃ t : State, exec (.seImm x kk) s = .next t ∧
      t.pc = (if s.readV x = kk then s.pc + 2 else s.pc) ∧ Keeps { pc := true } s t) ∧
    (∃ t : State, exec (.sneImm x kk) s = .next t ∧
      t.pc = (if s.readV x ≠ kk then s.pc + 2 else s.pc) ∧ Keeps { pc := true } s t)

/-- R113, R114: `5XY0` and `9XY0`, for every value of the ignored low nibble `n` of the word (decision D3,
assumption 11). -/
def Obligations.SkipOnRegister : Prop :=
  ∀ (s : State) (x y n : Nibble),
    (∃ t : State, exec (.seReg x y) s = .next t ∧ decode (wordXYN 0x5 x y n) = .seReg x y ∧
      t.pc = (if s.readV x = s.readV y then s.pc + 2 else s.pc) ∧ Keeps { pc := true } s t) ∧
    (∃ t : State, exec (.sneReg x y) s = .next t ∧ decode (wordXYN 0x9 x y n) = .sneReg x y ∧
      t.pc = (if s.readV x ≠ s.readV y then s.pc + 2 else s.pc) ∧ Keeps { pc := true } s t)

/-- R115, R116: `EX9E` skips where the key named by `V[X]` is pressed and `EXA1` where it is not; a value
above 15 is never pressed (decision D16, assumption 13). -/
def Obligations.SkipOnKey : Prop :=
  ∀ (s : State) (x : Nibble),
    ∃ down : Bool, (down = true ↔ (s.readV x).toNat ≤ 15 ∧ s.keys.getLsbD (s.readV x).toNat = true) ∧
    (∃ t : State, exec (.skp x) s = .next t ∧
      t.pc = (if down then s.pc + 2 else s.pc) ∧ Keeps { pc := true } s t) ∧
    (∃ t : State, exec (.sknp x) s = .next t ∧
      t.pc = (if down then s.pc else s.pc + 2) ∧ Keeps { pc := true } s t)

/-! ### ALU (spec/43_alu.md) -/

/-- R121, R122, R123: `6XKK`, `7XKK` (modulo 256, no flag), `8XY0`. -/
def Obligations.LoadAddAndMove : Prop :=
  ∀ (s : State) (x y : Nibble) (kk : Byte),
    (∃ t : State, exec (.ldImm x kk) s = .next t ∧ t.readV x = kk ∧ Keeps { v := [x] } s t) ∧
    (∃ t : State, exec (.addImm x kk) s = .next t ∧
      (t.readV x).toNat = ((s.readV x).toNat + kk.toNat) % 256 ∧ Keeps { v := [x] } s t) ∧
    (∃ t : State, exec (.ldReg x y) s = .next t ∧ t.readV x = s.readV y ∧ Keeps { v := [x] } s t)

/-- R124, R125, R126: `8XY1`, `8XY2`, `8XY3`; no flag. -/
def Obligations.BitwiseLogic : Prop :=
  ∀ (s : State) (x y : Nibble),
    (∃ t : State, exec (.orReg x y) s = .next t ∧ t.readV x = s.readV x ||| s.readV y ∧
      Keeps { v := [x] } s t) ∧
    (∃ t : State, exec (.andReg x y) s = .next t ∧ t.readV x = s.readV x &&& s.readV y ∧
      Keeps { v := [x] } s t) ∧
    (∃ t : State, exec (.xorReg x y) s = .next t ∧ t.readV x = s.readV x ^^^ s.readV y ∧
      Keeps { v := [x] } s t)

/-- R127 for X other than 0xF: `8XY4` (X = 0xF: FlagRegisterAsDestination). With Y = 0xF the operand is the
old flag register (decision D5, assumption 14). -/
def Obligations.AddWithCarryOut : Prop :=
  ∀ (s : State) (x y : Nibble), x ≠ vf →
    ∃ t : State, exec (.addReg x y) s = .next t ∧
      (t.readV x).toNat = ((s.readV x).toNat + (s.readV y).toNat) % 256 ∧
      t.readV vf = (if (s.readV x).toNat + (s.readV y).toNat > 255 then 1 else 0) ∧
      Keeps { v := [x, vf] } s t

/-- R128, R130 for X other than 0xF: `8XY5` and `8XY7`, the comparison strict (X = 0xF:
FlagRegisterAsDestination). With Y = 0xF the operand is the old flag register (decision D5,
assumption 14). -/
def Obligations.SubtractBothWays : Prop :=
  ∀ (s : State) (x y : Nibble), x ≠ vf →
    (∃ t : State, exec (.sub x y) s = .next t ∧
      (t.readV x).toNat = ((s.readV x).toNat + 256 - (s.readV y).toNat) % 256 ∧
      t.readV vf = (if (s.readV x).toNat > (s.readV y).toNat then 1 else 0) ∧
      Keeps { v := [x, vf] } s t) ∧
    (∃ t : State, exec (.subn x y) s = .next t ∧
      (t.readV x).toNat = ((s.readV y).toNat + 256 - (s.readV x).toNat) % 256 ∧
      t.readV vf = (if (s.readV y).toNat > (s.readV x).toNat then 1 else 0) ∧
      Keeps { v := [x, vf] } s t)

/-- R129, R131 for X other than 0xF: `8XY6` and `8XYE`, in place, `Y` not used, the bit shifted out in the
flag as 0 or 1 (X = 0xF: FlagRegisterAsDestination). -/
def Obligations.ShiftByOne : Prop :=
  ∀ (s : State) (x y : Nibble), x ≠ vf →
    (∃ t : State, exec (.shr x y) s = .next t ∧
      (t.readV x).toNat = (s.readV x).toNat / 2 ∧
      (t.readV vf).toNat = (s.readV x).toNat % 2 ∧ Keeps { v := [x, vf] } s t) ∧
    (∃ t : State, exec (.shl x y) s = .next t ∧
      (t.readV x).toNat = (s.readV x).toNat * 2 % 256 ∧
      (t.readV vf).toNat = (s.readV x).toNat / 128 ∧ Keeps { v := [x, vf] } s t)

/-- X = 0xF in the five instructions that write a result and a flag: the parameter P_FLAG_LAST says which
VF keeps, and both come from the operands before the instruction (R120, decisions D5, D6; assumptions 3,
14). -/
def Obligations.FlagRegisterAsDestination : Prop :=
  ∀ (s : State) (y : Nibble),
    ∃ a b : Nat, a = (s.readV vf).toNat ∧ b = (s.readV y).toNat ∧
    (∃ t : State, exec (.addReg vf y) s = .next t ∧ Keeps { v := [vf] } s t ∧
      (t.readV vf).toNat =
        if s.params.flagLast then (if a + b > 255 then 1 else 0) else (a + b) % 256) ∧
    (∃ t : State, exec (.sub vf y) s = .next t ∧ Keeps { v := [vf] } s t ∧
      (t.readV vf).toNat =
        if s.params.flagLast then (if a > b then 1 else 0) else (a + 256 - b) % 256) ∧
    (∃ t : State, exec (.shr vf y) s = .next t ∧ Keeps { v := [vf] } s t ∧
      (t.readV vf).toNat = if s.params.flagLast then a % 2 else a / 2) ∧
    (∃ t : State, exec (.subn vf y) s = .next t ∧ Keeps { v := [vf] } s t ∧
      (t.readV vf).toNat =
        if s.params.flagLast then (if b > a then 1 else 0) else (b + 256 - a) % 256) ∧
    (∃ t : State, exec (.shl vf y) s = .next t ∧ Keeps { v := [vf] } s t ∧
      (t.readV vf).toNat = if s.params.flagLast then a / 128 else a * 2 % 256)

/-- R132: `CXKK` writes the free random byte under the mask, so no bit the mask has clear. The byte is
uninterpreted (decision D17, assumption 2). -/
def Obligations.RandomByteUnderMask : Prop :=
  ∀ (s : State) (x : Nibble) (kk : Byte),
    ∃ t : State, exec (.rnd x kk) s = .next t ∧ t.readV x = Config.rnd s.draws &&& kk ∧
      (t.readV x).toNat ≤ kk.toNat ∧ t.draws = s.draws + 1 ∧
      Keeps { v := [x], draws := true } s t

/-! ### Index register and memory transfers (spec/44_index_memory.md) -/

/-- R140: `ANNN`. -/
def Obligations.LoadIndex : Prop :=
  ∀ (s : State) (nnn : Addr12), ∃ t : State, exec (.ldI nnn) s = .next t ∧
    t.i.toNat = nnn.toNat ∧ Keeps { i := true } s t

/-- R141, R142: `FX1E` modulo 65536 with no flag (decision D10, assumption 12); `FX29` times five, with no
mask, which the spec marks as derived. -/
def Obligations.IndexArithmetic : Prop :=
  ∀ (s : State) (x : Nibble),
    (∃ t : State, exec (.addI x) s = .next t ∧
      t.i.toNat = (s.i.toNat + (s.readV x).toNat) % 65536 ∧ Keeps { i := true } s t) ∧
    (∃ t : State, exec (.ldF x) s = .next t ∧
      t.i.toNat = (s.readV x).toNat * 5 ∧ Keeps { i := true } s t)

/-- R143: `FX33` writes the three decimal digits of `V[X]` at I, I + 1, I + 2; where I + 2 > 4095 it raises
`DataOutOfRange` and writes nothing. -/
def Obligations.BcdStoresThreeDigits : Prop :=
  ∀ (s : State) (x : Nibble),
    (s.i.toNat + 2 > 4095 → RaisesDataOutOfRange (.ldB x) s) ∧
    (s.MemOk → s.i.toNat + 2 ≤ 4095 →
      ∃ t : State, exec (.ldB x) s = .next t ∧
        (t.readByte s.i.toNat).toNat = (s.readV x).toNat / 100 ∧
        (t.readByte (s.i.toNat + 1)).toNat = (s.readV x).toNat / 10 % 10 ∧
        (t.readByte (s.i.toNat + 2)).toNat = (s.readV x).toNat % 10 ∧
        Keeps { bytes := byteRange s.i.toNat 3 } s t)

/-- R144: `FX55` stores `V[0]` to `V[X]` at I to I + X and keeps I (decision D19, assumption 22); where
I + X > 4095 it raises `DataOutOfRange` and writes nothing. -/
def Obligations.StoreRegisters : Prop :=
  ∀ (s : State) (x : Nibble),
    (s.i.toNat + x.toNat > 4095 → RaisesDataOutOfRange (.ldMemVx x) s) ∧
    (s.MemOk → s.i.toNat + x.toNat ≤ 4095 →
      ∃ t : State, exec (.ldMemVx x) s = .next t ∧
        (∀ r : Nibble, r.toNat ≤ x.toNat → t.readByte (s.i.toNat + r.toNat) = s.readV r) ∧
        Keeps { bytes := byteRange s.i.toNat (x.toNat + 1) } s t)

/-- R145: `FX65` loads `V[0]` to `V[X]` from I to I + X and keeps I (decision D19, assumption 22); where
I + X > 4095 it raises `DataOutOfRange` and loads nothing. -/
def Obligations.LoadRegisters : Prop :=
  ∀ (s : State) (x : Nibble),
    (s.i.toNat + x.toNat > 4095 → RaisesDataOutOfRange (.ldVxMem x) s) ∧
    (s.i.toNat + x.toNat ≤ 4095 →
      ∃ t : State, exec (.ldVxMem x) s = .next t ∧
        (∀ r : Nibble, r.toNat ≤ x.toNat → t.readV r = s.readByte (s.i.toNat + r.toNat)) ∧
        Keeps { v := regsUpTo x } s t)

/-- spec/95_test_vectors.md S8: what `FX55` stored, `FX65` with the same I loads back into any registers. -/
def Obligations.LoadReadsBackStore : Prop :=
  ∀ (s t u : State) (x : Nibble), s.MemOk → s.i.toNat + x.toNat ≤ 4095 →
    exec (.ldMemVx x) s = .next t → u.mem = t.mem → u.params = t.params → u.i = t.i →
    ∃ w : State, exec (.ldVxMem x) u = .next w ∧
      ∀ r : Nibble, r.toNat ≤ x.toNat → w.readV r = s.readV r

/-! ### Display (spec/45_display.md) -/

/-- R150: `00E0` turns every cell off; it also sets `drawFlag`, whether or not a cell was on (decision D13,
assumption 20). -/
def Obligations.ClearScreen : Prop :=
  ∀ s : State, ∃ t : State, exec .cls s = .next t ∧ (∀ y x, t.fb.cell y x = false) ∧
    t.drawFlag = true ∧ Keeps { fb := true, drawFlag := true } s t

/-- R151, R152: `DXYN` XORs the sprite onto the framebuffer, each cell by the one sprite bit that wrapping
puts on it; VF is 1 if a lit cell was turned off and 0 otherwise; `drawFlag` is set; a range that leaves
memory raises `DataOutOfRange` and changes nothing else. P_VCLIP is decision D15, the range under it and
`N = 0` decision D26 (assumptions 3, 21). -/
def Obligations.DrawXorsTheSprite : Prop :=
  ∀ (s : State) (x y n : Nibble),
    (n ≠ 0 → s.i.toNat + n.toNat > 4096 → RaisesDataOutOfRange (.drw x y n) s) ∧
    (n = 0 ∨ s.i.toNat + n.toNat ≤ 4096 →
      ∃ t : State, exec (.drw x y n) s = .next t ∧
        (∀ row col, t.fb.cell row col = (s.fb.cell row col ^^ s.spriteBit x y n row col)) ∧
        (t.readV vf = 1 ∧ (∃ row col, s.fb.cell row col = true ∧ s.spriteBit x y n row col = true) ∨
          t.readV vf = 0 ∧ ∀ row col, s.spriteBit x y n row col = true → s.fb.cell row col = false) ∧
        t.drawFlag = true ∧ Keeps { v := [vf], fb := true, drawFlag := true } s t)

/-- spec/95_test_vectors.md S6: drawing the same sprite twice at the same place restores the framebuffer;
on cells that were off the first draw reports no collision, and the second reports one where the sprite
has a 1 bit. -/
def Obligations.DrawTwiceRestores : Prop :=
  ∀ (s t : State) (x y n : Nibble), x ≠ vf → y ≠ vf → (n = 0 ∨ s.i.toNat + n.toNat ≤ 4096) →
    exec (.drw x y n) s = .next t →
    ∃ u : State, exec (.drw x y n) t = .next u ∧ u.fb = s.fb ∧
      ((∀ row col, s.spriteBit x y n row col = true → s.fb.cell row col = false) →
        t.readV vf = 0 ∧
        (u.readV vf = 1 ↔ ∃ row col, s.spriteBit x y n row col = true))

/-! ### Timers (spec/46_timers.md) -/

/-- R160, R161: `FX07` reads and `FX15` writes the delay timer (which timer: decision D23,
assumption 23). -/
def Obligations.DelayTimerAccess : Prop :=
  ∀ (s : State) (x : Nibble),
    (∃ t : State, exec (.ldVxDt x) s = .next t ∧ t.readV x = s.dt ∧ Keeps { v := [x] } s t) ∧
    (∃ t : State, exec (.ldDtVx x) s = .next t ∧ t.dt = s.readV x ∧ Keeps { dt := true } s t)

/-- R162: `FX18`. -/
def Obligations.SetSoundTimer : Prop :=
  ∀ (s : State) (x : Nibble), ∃ t : State, exec (.ldStVx x) s = .next t ∧
    t.st = s.readV x ∧ Keeps { st := true } s t

/-! ### Unimplemented encodings (spec/47_unimplemented.md) -/

/-- R170: the execute step of each of the ten unimplemented rows changes no state at all. -/
def Obligations.UnimplementedChangesNothing : Prop :=
  ∀ (s : State) (x y : Nibble) (kk : Byte) (nnn : Addr12),
    exec (.unimpl88 x y) s = .next s ∧ exec (.unimpl89 x y) s = .next s ∧
    exec (.unimpl8A x y) s = .next s ∧ exec (.unimpl8B x y) s = .next s ∧
    exec (.unimpl8C x y) s = .next s ∧ exec (.unimpl8D x y) s = .next s ∧
    exec (.unimpl8F x y) s = .next s ∧ exec (.unimpl0 nnn) s = .next s ∧
    exec (.unimplE x kk) s = .next s ∧ exec (.unimplF x kk) s = .next s

/-- R170: a cycle reports exactly where the machine runs, the fetch succeeds and the word is unimplemented;
the report is that word, and the cycle then changes only IR and PC (the report as an output is decision
D24, assumption 10). -/
def Obligations.UnimplementedIsReported : Prop :=
  ∀ (s : State) (op : Word),
    (unimplReport s = some op ↔
      s.halt = .none ∧ s.fetch = some op ∧ (decode op).unimplemented = true) ∧
    (unimplReport s = some op → cpuTick s = .next { s with ir := op, pc := s.pc + 2 })

/-! ### A failed construction (spec/60_exceptions.md R185) -/

/-- After a `Reset` with a ROM that is too large there is no machine: no event but another `Reset` is
accepted, and one with a ROM that fits makes exactly the machine it would have made in place of the failed
one (R185, R210). The refusal, and
the fields that go on, are the model's own (assumptions 8, 17). -/
def Obligations.FailedConstruction : Prop :=
  ∀ (big ok : List Byte) (s t : State), big.length > 3584 → runEvent (.reset big) s = .next t →
    (∀ e : Event, (∀ rom, e ≠ .reset rom) → runEvent e t = .refused .noMachine) ∧
    (ok.length ≤ 3584 → ∃ u : State, runEvent (.reset ok) t = .next u ∧ u.created = true ∧
      runEvent (.reset ok) s = .next u)

/-- A schedule of two resets, the first with a ROM that is too large: two steps make the machine of the
second (R185, R210; the queue and "no machine" are the model's own, assumptions 1, 8). -/
def Obligations.ResetFollowsAFailedConstruction : Prop :=
  ∀ (big ok : List Byte) (rest : List Event) (s : State),
    s.events = .reset big :: .reset ok :: rest → big.length > 3584 → ok.length ≤ 3584 →
    ∃ t u : State, step s = .next t ∧ t.created = false ∧ step t = .next u ∧ u.created = true ∧
      u.events = rest ∧ u.pc = 0x200 ∧ ∀ k : Nat, k < ok.length → u.readByte (0x200 + k) = ok.getD k 0
end

