-- ==== Sys2Proof/Laws/Display.lean ====
section
/-!
SUPPORT. Drawing, cell by cell: one pixel, one row, several rows. Each step XORs its bits onto the
framebuffer, and the collision bit tells whether a bit fell on a lit cell.
-/

namespace Sys2Proof.Machine

open Sys2Proof

/-! ### Cells -/

/-- Reading a cell after a write of one cell. -/
theorem Framebuffer.cell_setCell (fb : Framebuffer) (y y' : Fin 32) (x x' : Fin 64) (on : Bool) :
    (Framebuffer.setCell fb y x on).cell y' x' =
      if y' = y ∧ x' = x then on else Framebuffer.cell fb y' x' := by
  unfold Framebuffer.setCell Framebuffer.cell
  simp only [Vector.getElem_set]
  by_cases hy : y' = y
  · subst hy
    by_cases hx : x' = x
    · subst hx; simp
    · have : x.val ≠ x'.val := fun h => hx (Fin.ext h.symm)
      simp [hx, this]
  · have : y.val ≠ y'.val := fun h => hy (Fin.ext h.symm)
    simp [hy, this]

/-- A cleared framebuffer has every cell off. -/
@[simp] theorem Framebuffer.cell_blank (y : Fin 32) (x : Fin 64) :
    Framebuffer.blank.cell y x = false := by
  simp [Framebuffer.blank, Framebuffer.cell]

/-- Two framebuffers with equal cells are equal. -/
theorem Framebuffer.ext_cell {f g : Framebuffer}
    (h : ∀ (y : Fin 32) (x : Fin 64), Framebuffer.cell f y x = Framebuffer.cell g y x) : f = g := by
  refine Vector.ext fun y hy => Vector.ext fun x hx => ?_
  exact h ⟨y, hy⟩ ⟨x, hx⟩

/-! ### One row -/

/-- Which pixel of a row starting at column `x0` wrapping puts on column `x` (R152). -/
def pixelAt (x0 : Nat) (x : Fin 64) : Nat := (x.val + 64 - x0 % 64) % 64

/-- The row has a 1 bit on column `x`, counting its first `k` pixels. -/
def rowBit (x0 : Nat) (row : Byte) (k : Nat) (x : Fin 64) : Bool :=
  decide (pixelAt x0 x < k) && row.getLsbD (7 - pixelAt x0 x)

theorem pixelAt_ofNat {x0 b : Nat} {x : Fin 64} (hb : b < 64) :
    x = Fin.ofNat 64 (x0 + b) ↔ pixelAt x0 x = b := by
  have := x.isLt
  rw [Fin.ext_iff, Fin.val_ofNat, pixelAt]; omega

/-- The first `k` pixels of a row XOR their bits onto row `y`, and collide where one of them falls on a
lit cell. -/
theorem drawPixels_spec (y : Fin 32) (x0 : Nat) (row : Byte) (d : Drawing) (k : Nat) (hk : k ≤ 8) :
    (∀ y' x', ((List.range k).foldl (drawPixel y x0 row) d).fb.cell y' x' =
        (d.fb.cell y' x' ^^ (decide (y' = y) && rowBit x0 row k x'))) ∧
      (((List.range k).foldl (drawPixel y x0 row) d).collision = true ↔
        d.collision = true ∨ ∃ x', rowBit x0 row k x' = true ∧ d.fb.cell y x' = true) := by
  induction k with
  | zero => simp [rowBit]
  | succ k ih =>
    obtain ⟨ihc, ihf⟩ := ih (by omega)
    simp only [List.range_succ, List.foldl_append, List.foldl_cons, List.foldl_nil]
    set e := (List.range k).foldl (drawPixel y x0 row) d with he
    have hbit : ∀ x', rowBit x0 row (k + 1) x' =
        (rowBit x0 row k x' || (decide (pixelAt x0 x' = k) && row.getLsbD (7 - k))) := by
      intro x'
      unfold rowBit
      by_cases h : pixelAt x0 x' = k
      · simp [h]
      · have : pixelAt x0 x' < k + 1 ↔ pixelAt x0 x' < k := by omega
        simp [h, this]
    have hfresh : ∀ x', pixelAt x0 x' = k → rowBit x0 row k x' = false := by
      intro x' h; simp [rowBit, h]
    by_cases hr : row.getLsbD (7 - k) = true
    · simp only [drawPixel, hr, if_true, toggleCell]
      constructor
      · intro y' x'
        rw [Framebuffer.cell_setCell]
        by_cases hyx : y' = y ∧ x' = Fin.ofNat 64 (x0 + k)
        · obtain ⟨rfl, hx⟩ := hyx
          have hp := (pixelAt_ofNat (by omega)).1 hx
          rw [if_pos ⟨rfl, hx⟩, ← hx, ihc, hbit]
          simp [hfresh x' hp, hp, hr]
        · rw [if_neg hyx, ihc, hbit]
          by_cases hy : y' = y
          · have hp : pixelAt x0 x' ≠ k := fun h =>
              hyx ⟨hy, (pixelAt_ofNat (by omega)).2 h⟩
            simp [hp]
          · simp [hy]
      · have hpk : pixelAt x0 (Fin.ofNat 64 (x0 + k)) = k := (pixelAt_ofNat (by omega)).1 rfl
        rw [Bool.or_eq_true, ihf, ihc, hfresh _ hpk]
        simp only [decide_true, Bool.and_false, Bool.xor_false]
        constructor
        · rintro ((h | ⟨x', hx, hc⟩) | h)
          · exact .inl h
          · exact .inr ⟨x', by rw [hbit, hx]; rfl, hc⟩
          · exact .inr ⟨_, by rw [hbit, hpk, hr]; simp, h⟩
        · rintro (h | ⟨x', hx, hc⟩)
          · exact .inl (.inl h)
          · rw [hbit, Bool.or_eq_true] at hx
            rcases hx with hx | hx
            · exact .inl (.inr ⟨x', hx, hc⟩)
            · simp only [Bool.and_eq_true, decide_eq_true_eq] at hx
              rw [(pixelAt_ofNat (by omega)).2 hx.1] at hc
              exact .inr hc
    · have hr' : row.getLsbD (7 - k) = false := by simpa using hr
      have hb2 : ∀ x', rowBit x0 row (k + 1) x' = rowBit x0 row k x' := by
        intro x'; rw [hbit, hr']; simp
      simp only [drawPixel, hr', Bool.false_eq_true, if_false, hb2]
      exact ⟨ihc, ihf⟩

/-- One sprite row (R151, R152): dropped past row 31 under P_VCLIP, else its eight bits are XORed onto
row `y mod 32`. -/
theorem drawRow_spec (vclip : Bool) (x0 y : Nat) (row : Byte) (d : Drawing) :
    (∀ y' x', (drawRow vclip x0 y row d).fb.cell y' x' =
        (d.fb.cell y' x' ^^
          (!(vclip && decide (y > 31)) && decide (y'.val = y % 32) && rowBit x0 row 8 x'))) ∧
      ((drawRow vclip x0 y row d).collision = true ↔ d.collision = true ∨
        ∃ x', (!(vclip && decide (y > 31)) && rowBit x0 row 8 x') = true ∧
          d.fb.cell (Fin.ofNat 32 y) x' = true) := by
  unfold drawRow
  by_cases h : y > 31 ∧ vclip = true
  · rw [if_pos h]; simp [h.1, h.2]
  · have h' : (vclip && decide (y > 31)) = false := by
      cases vclip <;> simp_all
    rw [if_neg h, h']
    obtain ⟨h1, h2⟩ := drawPixels_spec (Fin.ofNat 32 y) x0 row d 8 (by omega)
    refine ⟨fun y' x' => ?_, by simpa using h2⟩
    rw [h1]
    simp [Fin.ext_iff]

/-- Several sprite rows from row index `y` on (R151, R152): each row's bits are XORed onto the row of the
framebuffer that wrapping gives it, and the collision bit tells whether one fell on a lit cell. No two of
at most 15 rows fall on one row of the framebuffer. -/
theorem drawRows_spec (vclip : Bool) (x0 : Nat) (rows : List Byte) (y : Nat) (d : Drawing)
    (hrows : rows.length ≤ 15) :
    (∀ y' x', (drawRows vclip x0 y rows d).fb.cell y' x' =
      (d.fb.cell y' x' ^^ ((List.range rows.length).any fun r =>
        !(vclip && decide (y + r > 31)) && decide (y'.val = (y + r) % 32) &&
          rowBit x0 (rows.getD r 0) 8 x'))) ∧
    ((drawRows vclip x0 y rows d).collision = true ↔ d.collision = true ∨
      ∃ r x', r < rows.length ∧
        (!(vclip && decide (y + r > 31)) && rowBit x0 (rows.getD r 0) 8 x') = true ∧
        d.fb.cell (Fin.ofNat 32 (y + r)) x' = true) := by
  induction rows generalizing y d with
  | nil => simp [drawRows]
  | cons row rows ih =>
    simp only [List.length_cons] at hrows
    obtain ⟨ihc, ihf⟩ := ih (y + 1) (drawRow vclip x0 y row d) (by omega)
    obtain ⟨rc, rf⟩ := drawRow_spec vclip x0 y row d
    simp only [drawRows]
    have e : ∀ r, y + 1 + r = y + (r + 1) := by intro r; omega
    constructor
    · intro y' x'
      rw [ihc, rc, List.length_cons, List.range_succ_eq_map, List.any_cons, List.any_map]
      simp only [Function.comp_def, List.getD_cons_zero, List.getD_cons_succ, Nat.add_zero, e,
        Nat.succ_eq_add_one]
      rw [Bool.xor_assoc]
      congr 1
      generalize hA : (!(vclip && decide (y > 31)) && decide (y'.val = y % 32) &&
        rowBit x0 row 8 x') = A
      cases A
      · simp
      · have hy : y'.val = y % 32 := by
          simp only [Bool.and_eq_true, decide_eq_true_eq] at hA; exact hA.1.2
        have hz : ((List.range rows.length).any fun r =>
            !(vclip && decide (y + (r + 1) > 31)) && decide (y'.val = (y + (r + 1)) % 32) &&
              rowBit x0 (rows.getD r 0) 8 x') = false := by
          rw [List.any_eq_false]
          intro r hr
          have hr := List.mem_range.1 hr
          have : ¬ y'.val = (y + (r + 1)) % 32 := by omega
          simp [this]
        rw [hz]; rfl
    · have hne : ∀ r, r < rows.length → ¬ (Fin.ofNat 32 (y + 1 + r)).val = y % 32 := by
        intro r hr; rw [Fin.val_ofNat]; omega
      rw [ihf, rf]
      constructor
      · rintro ((h | ⟨x', h, hc⟩) | ⟨r, x', hr, hb, hc⟩)
        · exact .inl h
        · exact .inr ⟨0, x', by simp, by simpa using h, by simpa using hc⟩
        · refine .inr ⟨r + 1, x', by simpa using hr, by simpa [e] using hb, ?_⟩
          rw [rc] at hc
          simp only [hne r hr, decide_false, Bool.and_false, Bool.false_and, Bool.xor_false] at hc
          simpa [e] using hc
      · rintro (h | ⟨r, x', hr, hb, hc⟩)
        · exact .inl (.inl h)
        · cases r with
          | zero => exact .inl (.inr ⟨x', by simpa using hb, by simpa using hc⟩)
          | succ r =>
            simp only [List.length_cons, Nat.add_lt_add_iff_right] at hr
            refine .inr ⟨r, x', hr, by simpa [e] using hb, ?_⟩
            rw [rc]
            simp only [hne r hr, decide_false, Bool.and_false, Bool.false_and, Bool.xor_false]
            simpa [e] using hc

end Sys2Proof.Machine
end

