-- ==== Sys2Proof/Laws/Encoding.lean ====
section
/-!
SUPPORT. The fields of a word built from its parts, and a word from its fields. Every proof goes
through the value of a field as a number.
-/

namespace Sys2Proof

/-- An append as a number. -/
theorem append_toNat {v w : Nat} (a : BitVec v) (b : BitVec w) :
    (a ++ b).toNat = a.toNat * 2 ^ w + b.toNat := by
  rw [BitVec.toNat_append, ← Nat.shiftLeft_add_eq_or_of_lt b.isLt, Nat.shiftLeft_eq]

variable (family x y n : Nibble) (kk : Byte) (nnn : Addr12) (op : Word)

/-! ### Words and fields as numbers -/

theorem wordA_toNat : (wordA family nnn).toNat = family.toNat * 4096 + nnn.toNat :=
  append_toNat family nnn

theorem appendXK_toNat : (x ++ kk : Addr12).toNat = x.toNat * 256 + kk.toNat := append_toNat x kk

theorem appendYN_toNat : (y ++ n : Byte).toNat = y.toNat * 16 + n.toNat := append_toNat y n

theorem wordXK_toNat :
    (wordXK family x kk).toNat = family.toNat * 4096 + x.toNat * 256 + kk.toNat := by
  rw [wordXK, wordA_toNat, appendXK_toNat]; omega

theorem wordXYN_toNat : (wordXYN family x y n).toNat =
    family.toNat * 4096 + x.toNat * 256 + y.toNat * 16 + n.toNat := by
  rw [wordXYN, wordXK_toNat, appendYN_toNat]; omega

theorem fieldFamily_toNat : (fieldFamily op).toNat = op.toNat / 4096 := by
  have := op.isLt
  simp only [fieldFamily, BitVec.extractLsb'_toNat, Nat.shiftRight_eq_div_pow]; omega

theorem fieldX_toNat : (fieldX op).toNat = op.toNat / 256 % 16 := by
  simp only [fieldX, BitVec.extractLsb'_toNat, Nat.shiftRight_eq_div_pow]

theorem fieldY_toNat : (fieldY op).toNat = op.toNat / 16 % 16 := by
  simp only [fieldY, BitVec.extractLsb'_toNat, Nat.shiftRight_eq_div_pow]

theorem fieldN_toNat : (fieldN op).toNat = op.toNat % 16 := by
  simp only [fieldN, BitVec.extractLsb'_toNat, Nat.shiftRight_eq_div_pow]; omega

theorem fieldKK_toNat : (fieldKK op).toNat = op.toNat % 256 := by
  simp only [fieldKK, BitVec.extractLsb'_toNat, Nat.shiftRight_eq_div_pow]; omega

theorem fieldNNN_toNat : (fieldNNN op).toNat = op.toNat % 4096 := by
  simp only [fieldNNN, BitVec.extractLsb'_toNat, Nat.shiftRight_eq_div_pow]; omega

/-! ### The fields of a word built in a format -/

@[simp] theorem fieldFamily_wordA : fieldFamily (wordA family nnn) = family := by
  have := nnn.isLt
  apply BitVec.eq_of_toNat_eq; rw [fieldFamily_toNat, wordA_toNat]; omega

@[simp] theorem fieldNNN_wordA : fieldNNN (wordA family nnn) = nnn := by
  have := nnn.isLt
  apply BitVec.eq_of_toNat_eq; rw [fieldNNN_toNat, wordA_toNat]; omega

@[simp] theorem fieldX_wordXK : fieldX (wordXK family x kk) = x := by
  have := x.isLt; have := kk.isLt
  apply BitVec.eq_of_toNat_eq; rw [fieldX_toNat, wordXK_toNat]; omega

@[simp] theorem fieldKK_wordXK : fieldKK (wordXK family x kk) = kk := by
  have := kk.isLt
  apply BitVec.eq_of_toNat_eq; rw [fieldKK_toNat, wordXK_toNat]; omega

@[simp] theorem fieldY_wordXYN : fieldY (wordXYN family x y n) = y := by
  have := y.isLt; have := n.isLt
  apply BitVec.eq_of_toNat_eq; rw [fieldY_toNat, wordXYN_toNat]; omega

@[simp] theorem fieldN_wordXYN : fieldN (wordXYN family x y n) = n := by
  have := n.isLt
  apply BitVec.eq_of_toNat_eq; rw [fieldN_toNat, wordXYN_toNat]; omega

@[simp] theorem fieldFamily_wordXK : fieldFamily (wordXK family x kk) = family :=
  fieldFamily_wordA ..

@[simp] theorem fieldFamily_wordXYN : fieldFamily (wordXYN family x y n) = family :=
  fieldFamily_wordA ..

@[simp] theorem fieldX_wordXYN : fieldX (wordXYN family x y n) = x := fieldX_wordXK ..

/-! ### A word from its fields -/

/-- Every word is the format-`A` word of its fields. -/
theorem wordA_fields : wordA (fieldFamily op) (fieldNNN op) = op := by
  apply BitVec.eq_of_toNat_eq; rw [wordA_toNat, fieldFamily_toNat, fieldNNN_toNat]; omega

/-- Every word is the format-`XK` word of its fields. -/
theorem wordXK_fields : wordXK (fieldFamily op) (fieldX op) (fieldKK op) = op := by
  have := op.isLt
  apply BitVec.eq_of_toNat_eq
  rw [wordXK_toNat, fieldFamily_toNat, fieldX_toNat, fieldKK_toNat]; omega

/-- Every word is the format-`XYN` word of its fields. -/
theorem wordXYN_fields :
    wordXYN (fieldFamily op) (fieldX op) (fieldY op) (fieldN op) = op := by
  have := op.isLt
  apply BitVec.eq_of_toNat_eq
  rw [wordXYN_toNat, fieldFamily_toNat, fieldX_toNat, fieldY_toNat, fieldN_toNat]; omega

/-! ### Bytes -/

/-- Two bytes as a word: the byte at the lower address times 256 plus the other (R44, R45). -/
theorem wordOfBytes_toNat (hi lo : Byte) :
    (wordOfBytes hi lo).toNat = hi.toNat * 256 + lo.toNat := append_toNat hi lo

/-- The bytes of a word compose to the word (R45). -/
theorem wordOfBytes_bytes : wordOfBytes (op.extractLsb' 8 8) (op.extractLsb' 0 8) = op := by
  have := op.isLt
  apply BitVec.eq_of_toNat_eq
  simp only [wordOfBytes_toNat, BitVec.extractLsb'_toNat, Nat.shiftRight_eq_div_pow]; omega

end Sys2Proof
end

