-- ==== Sys2Proof/Laws/State.lean ====
section
/-!
SUPPORT. One lemma per field per named update of the state, so that no proof unfolds an update.
-/

namespace Sys2Proof.Machine

open Sys2Proof

variable (s : State)

/-! ### `writeV` -/

section
variable (x : Nibble) (b : Byte)

@[simp] theorem State.writeV_i : (s.writeV x b).i = s.i := rfl
@[simp] theorem State.writeV_pc : (s.writeV x b).pc = s.pc := rfl
@[simp] theorem State.writeV_stack : (s.writeV x b).stack = s.stack := rfl
@[simp] theorem State.writeV_sp : (s.writeV x b).sp = s.sp := rfl
@[simp] theorem State.writeV_dt : (s.writeV x b).dt = s.dt := rfl
@[simp] theorem State.writeV_st : (s.writeV x b).st = s.st := rfl
@[simp] theorem State.writeV_fb : (s.writeV x b).fb = s.fb := rfl
@[simp] theorem State.writeV_drawFlag : (s.writeV x b).drawFlag = s.drawFlag := rfl
@[simp] theorem State.writeV_keys : (s.writeV x b).keys = s.keys := rfl
@[simp] theorem State.writeV_ir : (s.writeV x b).ir = s.ir := rfl
@[simp] theorem State.writeV_halt : (s.writeV x b).halt = s.halt := rfl
@[simp] theorem State.writeV_faultAddr : (s.writeV x b).faultAddr = s.faultAddr := rfl
@[simp] theorem State.writeV_mem : (s.writeV x b).mem = s.mem := rfl
@[simp] theorem State.writeV_params : (s.writeV x b).params = s.params := rfl
@[simp] theorem State.writeV_draws : (s.writeV x b).draws = s.draws := rfl
@[simp] theorem State.writeV_events : (s.writeV x b).events = s.events := rfl
@[simp] theorem State.writeV_scheduled : (s.writeV x b).scheduled = s.scheduled := rfl
@[simp] theorem State.writeV_created : (s.writeV x b).created = s.created := rfl
@[simp] theorem State.writeV_readByte (a : Nat) : (s.writeV x b).readByte a = s.readByte a := rfl

end

/-! ### `commit2` -/

section
variable (x : Nibble) (r f : Byte)

/-- `commit2` writes V registers and nothing else. -/
theorem State.commit2_eq : s.commit2 x r f = { s with v := (s.commit2 x r f).v } := by
  unfold State.commit2; split <;> rfl

@[simp] theorem State.commit2_i : (s.commit2 x r f).i = s.i := by rw [State.commit2_eq]
@[simp] theorem State.commit2_pc : (s.commit2 x r f).pc = s.pc := by rw [State.commit2_eq]
@[simp] theorem State.commit2_stack : (s.commit2 x r f).stack = s.stack := by rw [State.commit2_eq]
@[simp] theorem State.commit2_sp : (s.commit2 x r f).sp = s.sp := by rw [State.commit2_eq]
@[simp] theorem State.commit2_dt : (s.commit2 x r f).dt = s.dt := by rw [State.commit2_eq]
@[simp] theorem State.commit2_st : (s.commit2 x r f).st = s.st := by rw [State.commit2_eq]
@[simp] theorem State.commit2_fb : (s.commit2 x r f).fb = s.fb := by rw [State.commit2_eq]
@[simp] theorem State.commit2_drawFlag : (s.commit2 x r f).drawFlag = s.drawFlag := by
  rw [State.commit2_eq]
@[simp] theorem State.commit2_keys : (s.commit2 x r f).keys = s.keys := by rw [State.commit2_eq]
@[simp] theorem State.commit2_ir : (s.commit2 x r f).ir = s.ir := by rw [State.commit2_eq]
@[simp] theorem State.commit2_halt : (s.commit2 x r f).halt = s.halt := by rw [State.commit2_eq]
@[simp] theorem State.commit2_faultAddr : (s.commit2 x r f).faultAddr = s.faultAddr := by
  rw [State.commit2_eq]
@[simp] theorem State.commit2_mem : (s.commit2 x r f).mem = s.mem := by rw [State.commit2_eq]
@[simp] theorem State.commit2_params : (s.commit2 x r f).params = s.params := by
  rw [State.commit2_eq]
@[simp] theorem State.commit2_draws : (s.commit2 x r f).draws = s.draws := by rw [State.commit2_eq]
@[simp] theorem State.commit2_events : (s.commit2 x r f).events = s.events := by
  rw [State.commit2_eq]
@[simp] theorem State.commit2_scheduled : (s.commit2 x r f).scheduled = s.scheduled := by
  rw [State.commit2_eq]
@[simp] theorem State.commit2_created : (s.commit2 x r f).created = s.created := by
  rw [State.commit2_eq]
@[simp] theorem State.commit2_readByte (a : Nat) :
    (s.commit2 x r f).readByte a = s.readByte a := by rw [State.commit2_eq]; rfl

end

/-! ### `storeByte` -/

section
variable (a : Nat) (b : Byte)

@[simp] theorem State.storeByte_v : (s.storeByte a b).v = s.v := rfl
@[simp] theorem State.storeByte_i : (s.storeByte a b).i = s.i := rfl
@[simp] theorem State.storeByte_pc : (s.storeByte a b).pc = s.pc := rfl
@[simp] theorem State.storeByte_stack : (s.storeByte a b).stack = s.stack := rfl
@[simp] theorem State.storeByte_sp : (s.storeByte a b).sp = s.sp := rfl
@[simp] theorem State.storeByte_dt : (s.storeByte a b).dt = s.dt := rfl
@[simp] theorem State.storeByte_st : (s.storeByte a b).st = s.st := rfl
@[simp] theorem State.storeByte_fb : (s.storeByte a b).fb = s.fb := rfl
@[simp] theorem State.storeByte_drawFlag : (s.storeByte a b).drawFlag = s.drawFlag := rfl
@[simp] theorem State.storeByte_keys : (s.storeByte a b).keys = s.keys := rfl
@[simp] theorem State.storeByte_ir : (s.storeByte a b).ir = s.ir := rfl
@[simp] theorem State.storeByte_halt : (s.storeByte a b).halt = s.halt := rfl
@[simp] theorem State.storeByte_faultAddr : (s.storeByte a b).faultAddr = s.faultAddr := rfl
@[simp] theorem State.storeByte_params : (s.storeByte a b).params = s.params := rfl
@[simp] theorem State.storeByte_draws : (s.storeByte a b).draws = s.draws := rfl
@[simp] theorem State.storeByte_events : (s.storeByte a b).events = s.events := rfl
@[simp] theorem State.storeByte_scheduled : (s.storeByte a b).scheduled = s.scheduled := rfl
@[simp] theorem State.storeByte_created : (s.storeByte a b).created = s.created := rfl
@[simp] theorem State.storeByte_readV (x : Nibble) : (s.storeByte a b).readV x = s.readV x := rfl

end

/-! ### `storeBytes` -/

section
variable (a : Nat) (bs : List Byte)

/-- `storeBytes` writes memory and nothing else. -/
theorem State.storeBytes_eq : s.storeBytes a bs = { s with mem := (s.storeBytes a bs).mem } := by
  induction bs generalizing s a with
  | nil => rfl
  | cons b bs ih => rw [State.storeBytes, ih]; rfl

@[simp] theorem State.storeBytes_v : (s.storeBytes a bs).v = s.v := by rw [State.storeBytes_eq]
@[simp] theorem State.storeBytes_i : (s.storeBytes a bs).i = s.i := by rw [State.storeBytes_eq]
@[simp] theorem State.storeBytes_pc : (s.storeBytes a bs).pc = s.pc := by rw [State.storeBytes_eq]
@[simp] theorem State.storeBytes_stack : (s.storeBytes a bs).stack = s.stack := by
  rw [State.storeBytes_eq]
@[simp] theorem State.storeBytes_sp : (s.storeBytes a bs).sp = s.sp := by rw [State.storeBytes_eq]
@[simp] theorem State.storeBytes_dt : (s.storeBytes a bs).dt = s.dt := by rw [State.storeBytes_eq]
@[simp] theorem State.storeBytes_st : (s.storeBytes a bs).st = s.st := by rw [State.storeBytes_eq]
@[simp] theorem State.storeBytes_fb : (s.storeBytes a bs).fb = s.fb := by rw [State.storeBytes_eq]
@[simp] theorem State.storeBytes_drawFlag : (s.storeBytes a bs).drawFlag = s.drawFlag := by
  rw [State.storeBytes_eq]
@[simp] theorem State.storeBytes_keys : (s.storeBytes a bs).keys = s.keys := by
  rw [State.storeBytes_eq]
@[simp] theorem State.storeBytes_ir : (s.storeBytes a bs).ir = s.ir := by rw [State.storeBytes_eq]
@[simp] theorem State.storeBytes_halt : (s.storeBytes a bs).halt = s.halt := by
  rw [State.storeBytes_eq]
@[simp] theorem State.storeBytes_faultAddr : (s.storeBytes a bs).faultAddr = s.faultAddr := by
  rw [State.storeBytes_eq]
@[simp] theorem State.storeBytes_params : (s.storeBytes a bs).params = s.params := by
  rw [State.storeBytes_eq]
@[simp] theorem State.storeBytes_draws : (s.storeBytes a bs).draws = s.draws := by
  rw [State.storeBytes_eq]
@[simp] theorem State.storeBytes_events : (s.storeBytes a bs).events = s.events := by
  rw [State.storeBytes_eq]
@[simp] theorem State.storeBytes_scheduled : (s.storeBytes a bs).scheduled = s.scheduled := by
  rw [State.storeBytes_eq]
@[simp] theorem State.storeBytes_created : (s.storeBytes a bs).created = s.created := by
  rw [State.storeBytes_eq]
@[simp] theorem State.storeBytes_readV (x : Nibble) :
    (s.storeBytes a bs).readV x = s.readV x := by rw [State.storeBytes_eq]; rfl

end

/-! ### `loadV` -/

section
variable (a n : Nat)

/-- `loadV` writes V registers and nothing else. -/
theorem State.loadV_eq : s.loadV a n = { s with v := (s.loadV a n).v } := by
  induction n with
  | zero => rfl
  | succ n ih => rw [State.loadV, ih]; rfl

@[simp] theorem State.loadV_i : (s.loadV a n).i = s.i := by rw [State.loadV_eq]
@[simp] theorem State.loadV_pc : (s.loadV a n).pc = s.pc := by rw [State.loadV_eq]
@[simp] theorem State.loadV_stack : (s.loadV a n).stack = s.stack := by rw [State.loadV_eq]
@[simp] theorem State.loadV_sp : (s.loadV a n).sp = s.sp := by rw [State.loadV_eq]
@[simp] theorem State.loadV_dt : (s.loadV a n).dt = s.dt := by rw [State.loadV_eq]
@[simp] theorem State.loadV_st : (s.loadV a n).st = s.st := by rw [State.loadV_eq]
@[simp] theorem State.loadV_fb : (s.loadV a n).fb = s.fb := by rw [State.loadV_eq]
@[simp] theorem State.loadV_drawFlag : (s.loadV a n).drawFlag = s.drawFlag := by
  rw [State.loadV_eq]
@[simp] theorem State.loadV_keys : (s.loadV a n).keys = s.keys := by rw [State.loadV_eq]
@[simp] theorem State.loadV_ir : (s.loadV a n).ir = s.ir := by rw [State.loadV_eq]
@[simp] theorem State.loadV_halt : (s.loadV a n).halt = s.halt := by rw [State.loadV_eq]
@[simp] theorem State.loadV_faultAddr : (s.loadV a n).faultAddr = s.faultAddr := by
  rw [State.loadV_eq]
@[simp] theorem State.loadV_mem : (s.loadV a n).mem = s.mem := by rw [State.loadV_eq]
@[simp] theorem State.loadV_params : (s.loadV a n).params = s.params := by rw [State.loadV_eq]
@[simp] theorem State.loadV_draws : (s.loadV a n).draws = s.draws := by rw [State.loadV_eq]
@[simp] theorem State.loadV_events : (s.loadV a n).events = s.events := by rw [State.loadV_eq]
@[simp] theorem State.loadV_scheduled : (s.loadV a n).scheduled = s.scheduled := by rw [State.loadV_eq]
@[simp] theorem State.loadV_created : (s.loadV a n).created = s.created := by rw [State.loadV_eq]
@[simp] theorem State.loadV_readByte (b : Nat) : (s.loadV a n).readByte b = s.readByte b := by
  rw [State.loadV_eq]; rfl

end

/-! ### `fatal` and `fetched` -/

section
variable (c : Halt) (addr : BitVec 17) (op : Word)

@[simp] theorem State.fatal_v : (s.fatal c addr).v = s.v := rfl
@[simp] theorem State.fatal_i : (s.fatal c addr).i = s.i := rfl
@[simp] theorem State.fatal_pc : (s.fatal c addr).pc = s.pc := rfl
@[simp] theorem State.fatal_stack : (s.fatal c addr).stack = s.stack := rfl
@[simp] theorem State.fatal_sp : (s.fatal c addr).sp = s.sp := rfl
@[simp] theorem State.fatal_dt : (s.fatal c addr).dt = s.dt := rfl
@[simp] theorem State.fatal_st : (s.fatal c addr).st = s.st := rfl
@[simp] theorem State.fatal_fb : (s.fatal c addr).fb = s.fb := rfl
@[simp] theorem State.fatal_drawFlag : (s.fatal c addr).drawFlag = s.drawFlag := rfl
@[simp] theorem State.fatal_keys : (s.fatal c addr).keys = s.keys := rfl
@[simp] theorem State.fatal_ir : (s.fatal c addr).ir = s.ir := rfl
@[simp] theorem State.fatal_halt : (s.fatal c addr).halt = c := rfl
@[simp] theorem State.fatal_faultAddr : (s.fatal c addr).faultAddr = addr := rfl
@[simp] theorem State.fatal_mem : (s.fatal c addr).mem = s.mem := rfl
@[simp] theorem State.fatal_params : (s.fatal c addr).params = s.params := rfl
@[simp] theorem State.fatal_draws : (s.fatal c addr).draws = s.draws := rfl
@[simp] theorem State.fatal_events : (s.fatal c addr).events = s.events := rfl
@[simp] theorem State.fatal_scheduled : (s.fatal c addr).scheduled = s.scheduled := rfl
@[simp] theorem State.fatal_created : (s.fatal c addr).created = s.created := rfl
@[simp] theorem State.fatal_readV (x : Nibble) : (s.fatal c addr).readV x = s.readV x := rfl
@[simp] theorem State.fatal_readByte (a : Nat) : (s.fatal c addr).readByte a = s.readByte a := rfl

@[simp] theorem State.fetched_v : (s.fetched op).v = s.v := rfl
@[simp] theorem State.fetched_i : (s.fetched op).i = s.i := rfl
@[simp] theorem State.fetched_pc : (s.fetched op).pc = s.pc + 2 := rfl
@[simp] theorem State.fetched_stack : (s.fetched op).stack = s.stack := rfl
@[simp] theorem State.fetched_sp : (s.fetched op).sp = s.sp := rfl
@[simp] theorem State.fetched_dt : (s.fetched op).dt = s.dt := rfl
@[simp] theorem State.fetched_st : (s.fetched op).st = s.st := rfl
@[simp] theorem State.fetched_fb : (s.fetched op).fb = s.fb := rfl
@[simp] theorem State.fetched_drawFlag : (s.fetched op).drawFlag = s.drawFlag := rfl
@[simp] theorem State.fetched_keys : (s.fetched op).keys = s.keys := rfl
@[simp] theorem State.fetched_ir : (s.fetched op).ir = op := rfl
@[simp] theorem State.fetched_halt : (s.fetched op).halt = s.halt := rfl
@[simp] theorem State.fetched_faultAddr : (s.fetched op).faultAddr = s.faultAddr := rfl
@[simp] theorem State.fetched_mem : (s.fetched op).mem = s.mem := rfl
@[simp] theorem State.fetched_params : (s.fetched op).params = s.params := rfl
@[simp] theorem State.fetched_draws : (s.fetched op).draws = s.draws := rfl
@[simp] theorem State.fetched_events : (s.fetched op).events = s.events := rfl
@[simp] theorem State.fetched_scheduled : (s.fetched op).scheduled = s.scheduled := rfl
@[simp] theorem State.fetched_created : (s.fetched op).created = s.created := rfl
@[simp] theorem State.fetched_readV (x : Nibble) : (s.fetched op).readV x = s.readV x := rfl
@[simp] theorem State.fetched_readByte (a : Nat) : (s.fetched op).readByte a = s.readByte a := rfl

end

/-! ### `skipIf` -/

section
variable (c : Bool)

@[simp] theorem State.skipIf_v : (s.skipIf c).v = s.v := rfl
@[simp] theorem State.skipIf_i : (s.skipIf c).i = s.i := rfl
@[simp] theorem State.skipIf_pc : (s.skipIf c).pc = if c then s.pc + 2 else s.pc := rfl
@[simp] theorem State.skipIf_stack : (s.skipIf c).stack = s.stack := rfl
@[simp] theorem State.skipIf_sp : (s.skipIf c).sp = s.sp := rfl
@[simp] theorem State.skipIf_dt : (s.skipIf c).dt = s.dt := rfl
@[simp] theorem State.skipIf_st : (s.skipIf c).st = s.st := rfl
@[simp] theorem State.skipIf_fb : (s.skipIf c).fb = s.fb := rfl
@[simp] theorem State.skipIf_drawFlag : (s.skipIf c).drawFlag = s.drawFlag := rfl
@[simp] theorem State.skipIf_keys : (s.skipIf c).keys = s.keys := rfl
@[simp] theorem State.skipIf_ir : (s.skipIf c).ir = s.ir := rfl
@[simp] theorem State.skipIf_halt : (s.skipIf c).halt = s.halt := rfl
@[simp] theorem State.skipIf_faultAddr : (s.skipIf c).faultAddr = s.faultAddr := rfl
@[simp] theorem State.skipIf_mem : (s.skipIf c).mem = s.mem := rfl
@[simp] theorem State.skipIf_params : (s.skipIf c).params = s.params := rfl
@[simp] theorem State.skipIf_draws : (s.skipIf c).draws = s.draws := rfl
@[simp] theorem State.skipIf_events : (s.skipIf c).events = s.events := rfl
@[simp] theorem State.skipIf_scheduled : (s.skipIf c).scheduled = s.scheduled := rfl
@[simp] theorem State.skipIf_created : (s.skipIf c).created = s.created := rfl
@[simp] theorem State.skipIf_readV (x : Nibble) : (s.skipIf c).readV x = s.readV x := rfl
@[simp] theorem State.skipIf_readByte (a : Nat) : (s.skipIf c).readByte a = s.readByte a := rfl

end

end Sys2Proof.Machine
end

