-- ==== Sys2Proof/Laws/Memory.lean ====
section
/-!
SUPPORT. Memory: a read after a write, and that every memory operation keeps the canonical form.
-/

namespace Sys2Proof.Machine

open Sys2Proof

/-! ### The list -/

theorem Memory.find_insert (a b : Nat) (v : Byte) (m : Memory) :
    Memory.find b (Memory.insert a v m) = if b = a then some v else Memory.find b m := by
  induction m with
  | nil => simp [Memory.insert, Memory.find]
  | cons c m ih =>
    obtain ⟨c, w⟩ := c
    simp only [Memory.insert]
    split
    · simp [Memory.find]
    · split
      · subst_vars; by_cases h : b = c <;> simp [Memory.find, h]
      · simp only [Memory.find, ih]
        by_cases h : b = c
        · subst h; rw [if_pos rfl, if_neg (by omega), if_pos rfl]
        · rw [if_neg h, if_neg h]

/-- An address below or outside the listed ones is not listed. -/
theorem Memory.find_eq_none {a : Nat} {m : Memory} (h : ∀ c ∈ m, c.1 ≠ a) :
    Memory.find a m = none := by
  induction m with
  | nil => rfl
  | cons c m ih =>
    obtain ⟨c, w⟩ := c
    have hc : c ≠ a := h (c, w) (by simp)
    rw [Memory.find, if_neg (by omega), ih fun d hd => h d (by simp [hd])]

theorem Memory.find_erase (a b : Nat) {m : Memory} (h : m.Pairwise (fun c d => c.1 < d.1)) :
    Memory.find b (Memory.erase a m) = if b = a then none else Memory.find b m := by
  induction m with
  | nil => simp [Memory.erase, Memory.find]
  | cons c m ih =>
    obtain ⟨c, w⟩ := c
    rw [List.pairwise_cons] at h
    simp only [Memory.erase]
    split
    · next hac =>
      subst hac
      by_cases hb : b = a
      · subst hb
        rw [if_pos rfl]
        exact Memory.find_eq_none fun d hd => by have := h.1 d hd; simp only at this; omega
      · rw [if_neg hb, Memory.find, if_neg hb]
    · simp only [Memory.find, ih h.2]
      by_cases hb : b = c
      · subst hb; rw [if_pos rfl, if_neg (by omega), if_pos rfl]
      · rw [if_neg hb, if_neg hb]

theorem Memory.mem_insert {c : Host.Cell} {a : Nat} {v : Byte} {m : Memory}
    (h : c ∈ Memory.insert a v m) : c = (a, v) ∨ c ∈ m := by
  induction m with
  | nil => simpa [Memory.insert] using h
  | cons d m ih =>
    obtain ⟨d, w⟩ := d
    simp only [Memory.insert] at h
    split at h
    · simpa using h
    · split at h
      · simp only [List.mem_cons] at h ⊢; tauto
      · simp only [List.mem_cons] at h ⊢
        rcases h with h | h
        · tauto
        · have := ih h; tauto

theorem Memory.mem_erase {c : Host.Cell} {a : Nat} {m : Memory} (h : c ∈ Memory.erase a m) :
    c ∈ m := by
  induction m with
  | nil => simp [Memory.erase] at h
  | cons d m ih =>
    obtain ⟨d, w⟩ := d
    simp only [Memory.erase] at h
    split at h
    · exact List.mem_cons_of_mem _ h
    · simp only [List.mem_cons] at h ⊢
      exact h.imp id ih

theorem Memory.insert_rising {a : Nat} {v : Byte} {m : Memory}
    (h : m.Pairwise (fun c d => c.1 < d.1)) :
    (Memory.insert a v m).Pairwise (fun c d => c.1 < d.1) := by
  induction m with
  | nil => simp [Memory.insert]
  | cons d m ih =>
    obtain ⟨d, w⟩ := d
    have h' := List.pairwise_cons.1 h
    simp only [Memory.insert]
    split
    · next had =>
      refine List.pairwise_cons.2 ⟨fun c hc => ?_, h⟩
      rcases List.mem_cons.1 hc with rfl | hc
      · exact had
      · have := h'.1 c hc; simp only at this ⊢; omega
    · split
      · next had => subst had; exact List.pairwise_cons.2 ⟨h'.1, h'.2⟩
      · refine List.pairwise_cons.2 ⟨fun c hc => ?_, ih h'.2⟩
        rcases Memory.mem_insert hc with rfl | hc
        · simp only; omega
        · exact h'.1 c hc

theorem Memory.erase_rising {a : Nat} {m : Memory} (h : m.Pairwise (fun c d => c.1 < d.1)) :
    (Memory.erase a m).Pairwise (fun c d => c.1 < d.1) := by
  induction m with
  | nil => simp [Memory.erase]
  | cons d m ih =>
    obtain ⟨d, w⟩ := d
    have h' := List.pairwise_cons.1 h
    simp only [Memory.erase]
    split
    · exact h'.2
    · exact List.pairwise_cons.2 ⟨fun c hc => h'.1 c (Memory.mem_erase hc), ih h'.2⟩

theorem Memory.wf_insert {p : Params} {a : Nat} {v : Byte} {m : Memory} (h : Memory.wf p m)
    (ha : a < 4096) (hv : v ≠ resetByte p a) : Memory.wf p (Memory.insert a v m) := by
  refine ⟨Memory.insert_rising h.1, fun c hc => ?_⟩
  rcases Memory.mem_insert hc with rfl | hc
  · exact ⟨ha, hv⟩
  · exact h.2 c hc

theorem Memory.wf_erase {p : Params} {a : Nat} {m : Memory} (h : Memory.wf p m) :
    Memory.wf p (Memory.erase a m) :=
  ⟨Memory.erase_rising h.1, fun c hc => h.2 c (Memory.mem_erase hc)⟩

/-- Memory that lists nothing is in its canonical form. -/
theorem Memory.wf_nil (p : Params) : Memory.wf p [] := ⟨List.Pairwise.nil, nofun⟩

/-! ### One byte -/

/-- Reading after a store of one byte: the byte stored at its address, the old byte elsewhere; a store
above 4095 writes nothing (R43). -/
theorem State.readByte_storeByte {s : State} (h : Memory.wf s.params s.mem) (a b : Nat) (v : Byte) :
    (s.storeByte a v).readByte b = if b = a ∧ a ≤ 4095 then v else s.readByte b := by
  unfold State.storeByte State.readByte
  dsimp only
  by_cases ha : a ≤ 4095
  · rw [if_pos ha]
    split
    · next hv =>
      rw [Memory.find_erase a b h.1]
      by_cases hb : b = a
      · subst hb; simp [ha, hv]
      · simp [hb]
    · rw [Memory.find_insert]
      by_cases hb : b = a
      · subst hb; simp [ha]
      · simp [hb]
  · rw [if_neg ha, if_neg (by omega)]

theorem State.storeByte_wf {s : State} (h : Memory.wf s.params s.mem) (a : Nat) (v : Byte) :
    Memory.wf (s.storeByte a v).params (s.storeByte a v).mem := by
  unfold State.storeByte
  dsimp only
  split
  · split
    · exact Memory.wf_erase h
    · next ha hv => exact Memory.wf_insert h (by omega) hv
  · exact h

/-! ### Several bytes -/

theorem State.storeBytes_wf {s : State} (h : Memory.wf s.params s.mem) (a : Nat) (bs : List Byte) :
    Memory.wf (s.storeBytes a bs).params (s.storeBytes a bs).mem := by
  induction bs generalizing s a with
  | nil => exact h
  | cons b bs ih => exact ih (State.storeByte_wf h a b) (a + 1)

/-- Reading after a store of several bytes inside memory: the bytes stored at their addresses, the old
byte elsewhere. -/
theorem State.readByte_storeBytes {s : State} (h : Memory.wf s.params s.mem) (a b : Nat)
    (bs : List Byte) (hr : a + bs.length ≤ 4096) :
    (s.storeBytes a bs).readByte b =
      if hb : a ≤ b ∧ b - a < bs.length then bs[b - a]'hb.2 else s.readByte b := by
  induction bs generalizing s a with
  | nil => simp [State.storeBytes]
  | cons c bs ih =>
    simp only [List.length_cons] at hr
    rw [State.storeBytes, ih (State.storeByte_wf h a c) (a + 1) (by omega),
      State.readByte_storeByte h]
    by_cases h1 : b = a
    · subst h1
      rw [dif_neg (by omega), if_pos ⟨rfl, by omega⟩, dif_pos ⟨by omega, by simp⟩]
      simp
    · by_cases h2 : a ≤ b ∧ b - a < bs.length + 1
      · rw [dif_pos ⟨by omega, by omega⟩, dif_pos (by simpa using h2)]
        have : b - a = (b - (a + 1)) + 1 := by omega
        simp [this]
      · rw [dif_neg (by omega), if_neg (by omega), dif_neg (by simpa using h2)]

@[simp] theorem State.readBytes_length (s : State) (a len : Nat) :
    (s.readBytes a len).length = len := by simp [State.readBytes]

theorem State.readBytes_getElem (s : State) (a len k : Nat) (h : k < (s.readBytes a len).length) :
    (s.readBytes a len)[k] = s.readByte (a + k) := by simp [State.readBytes]

/-! ### The range check -/

/-- All that `checkRange` answers (R48). -/
theorem checkRange_cases (a len : Nat) :
    (len ≠ 0 ∧ a + len > 4096 ∧ checkRange a len = some (BitVec.ofNat 17 (max a 4096))) ∨
      ((len = 0 ∨ a + len ≤ 4096) ∧ checkRange a len = none) := by
  unfold checkRange
  split
  · exact .inl ⟨by omega, by omega, rfl⟩
  · exact .inr ⟨by omega, rfl⟩

/-- All that `withRange` answers: the fatal entry for a range that leaves memory, else `t`. -/
theorem withRange_cases (a len : Nat) (s t : State) :
    (len ≠ 0 ∧ a + len > 4096 ∧
        withRange a len s t = .next (s.fatal .dataOutOfRange (BitVec.ofNat 17 (max a 4096)))) ∨
      ((len = 0 ∨ a + len ≤ 4096) ∧ withRange a len s t = .next t) := by
  rcases checkRange_cases a len with ⟨h1, h2, h3⟩ | ⟨h1, h3⟩
  · exact .inl ⟨h1, h2, by simp [withRange, h3, raise]⟩
  · exact .inr ⟨h1, by simp [withRange, h3]⟩

/-! ### The fetch -/

/-- All that `fetch` answers (R44). -/
theorem State.fetch_cases (s : State) :
    (s.pc.toNat ≤ 4094 ∧
        s.fetch = some (wordOfBytes (s.readByte s.pc.toNat) (s.readByte (s.pc.toNat + 1)))) ∨
      (s.pc.toNat ≥ 4095 ∧ s.fetch = none) := by
  unfold State.fetch
  split
  · exact .inl ⟨by omega, rfl⟩
  · exact .inr ⟨by omega, rfl⟩

end Sys2Proof.Machine
end

