-- ==== Sys2Proof/Laws/Registers.lean ====
section
/-!
SUPPORT. V registers, the stack and the key set: what each shared operation does, said once.
-/

namespace Sys2Proof.Machine

open Sys2Proof

/-! ### V registers -/

/-- Reading after a write of one V register. -/
@[simp] theorem State.readV_writeV (s : State) (x y : Nibble) (b : Byte) :
    (s.writeV x b).readV y = if y = x then b else s.readV y := by
  unfold State.writeV State.readV
  dsimp only
  rw [Vector.getElem_set]
  by_cases h : y = x
  · subst h; simp
  · rw [if_neg h, if_neg fun hn => h (BitVec.eq_of_toNat_eq hn.symm)]

/-- Reading after `commit2`: the flag is in VF and the result in `V[x]`; at `x = 0xF` the parameter
P_FLAG_LAST says which survives (R120). -/
theorem State.readV_commit2 (s : State) (x y : Nibble) (r f : Byte) :
    (s.commit2 x r f).readV y =
      if y = vf then (if x = vf ∧ s.params.flagLast = false then r else f)
      else if y = x then r else s.readV y := by
  unfold State.commit2
  cases s.params.flagLast <;> simp only [Bool.false_eq_true, if_false, if_true,
    State.readV_writeV] <;> by_cases h1 : y = vf <;> by_cases h2 : x = vf <;>
    simp_all [eq_comm]

/-- The result of `commit2` where the destination is not VF (R120). -/
theorem State.readV_commit2_result (s : State) {x : Nibble} (hx : x ≠ vf) (r f : Byte) :
    (s.commit2 x r f).readV x = r := by
  rw [State.readV_commit2, if_neg hx, if_pos rfl]

/-- The flag of `commit2` where the destination is not VF (R120). -/
theorem State.readV_commit2_flag (s : State) {x : Nibble} (hx : x ≠ vf) (r f : Byte) :
    (s.commit2 x r f).readV vf = f := by
  rw [State.readV_commit2, if_pos rfl, if_neg fun h => hx h.1]

/-- Reading after a load of `V[0..n-1]` (R145). -/
theorem State.readV_loadV (s : State) (a n : Nat) (hn : n ≤ 16) (y : Nibble) :
    (s.loadV a n).readV y = if y.toNat < n then s.readByte (a + y.toNat) else s.readV y := by
  induction n with
  | zero => simp [State.loadV]
  | succ n ih =>
    rw [State.loadV, State.readV_writeV, ih (by omega)]
    by_cases h : y = BitVec.ofNat 4 n
    · subst h
      have : (BitVec.ofNat 4 n).toNat = n := by simp; omega
      rw [if_pos rfl, if_pos (by omega), this]
    · have : y.toNat ≠ n := fun hn => h (by rw [← hn]; simp)
      rw [if_neg h]
      by_cases h2 : y.toNat < n
      · rw [if_pos h2, if_pos (by omega)]
      · rw [if_neg h2, if_neg (by omega)]

@[simp] theorem State.firstV_length (s : State) (x : Nibble) :
    (s.firstV x).length = x.toNat + 1 := by
  have := x.isLt
  simp [State.firstV]; omega

/-- Byte `k` of what `FX55` stores is `V[k]` (R144). -/
theorem State.firstV_getElem (s : State) (x : Nibble) (k : Nat) (h : k < (s.firstV x).length) :
    (s.firstV x)[k] = s.readV (BitVec.ofNat 4 k) := by
  have hx := x.isLt
  have hk : k < 16 := by simp at h; omega
  simp [State.firstV, State.readV, Nat.mod_eq_of_lt hk]

/-! ### The stack -/

/-- A push where SP indexes an entry. -/
theorem State.push_of_lt (s : State) (w : Word) (h : s.sp.toNat < 16) :
    s.push w = some { s with stack := s.stack.set s.sp.toNat w h, sp := s.sp + 1 } := dif_pos h

/-- SP one lower, where SP is not 0. -/
theorem sp_sub_one_toNat {sp : Byte} (h : sp ≠ 0) : (sp - 1).toNat = sp.toNat - 1 := by
  have : sp.toNat ≠ 0 := fun hn => h (BitVec.eq_of_toNat_eq (by simpa using hn))
  have := sp.isLt
  rw [BitVec.toNat_sub]; simp; omega

/-- A pop where SP is 1..16. -/
theorem State.popPc_of_le (s : State) (h0 : s.sp ≠ 0) (h : s.sp.toNat ≤ 16) :
    s.popPc = some { s with
      sp := s.sp - 1
      pc := s.stack[s.sp.toNat - 1]'(by
        have : s.sp.toNat ≠ 0 := fun hn => h0 (BitVec.eq_of_toNat_eq (by simpa using hn))
        omega) } := by
  have hne : s.sp.toNat ≠ 0 := fun hn => h0 (BitVec.eq_of_toNat_eq (by simpa using hn))
  have hlt : (s.sp - 1).toNat < 16 := by rw [sp_sub_one_toNat h0]; omega
  rw [State.popPc, dif_pos hlt]
  simp only [sp_sub_one_toNat h0]

/-! ### Keys -/

/-- A code above 15 is never pressed (R115, D16). -/
theorem State.pressed_of_ge (s : State) {code : Byte} (h : 16 ≤ code.toNat) :
    s.pressed code = false := by
  simp [State.pressed]; omega

/-- A code of 0..15 is pressed when its bit of `keys` is set (R29). -/
theorem State.pressed_of_lt (s : State) {code : Byte} (h : code.toNat < 16) :
    s.pressed code = s.keys.getLsbD code.toNat := by
  simp [State.pressed, h]

/-! ### Flags and counters -/

/-- Every flag value is 0 or 1 (R22). -/
theorem flagByte_cases (b : Bool) : flagByte b = 0 ∧ b = false ∨ flagByte b = 1 ∧ b = true := by
  cases b <;> simp [flagByte]

end Sys2Proof.Machine
end

