-- ==== Sys2Proof/Laws/Frames.lean ====
section
/-!
SUPPORT. What each shared operation leaves as it was, and all that the two stack instructions, the cycle
and the range check of an instruction can answer: said once, to be cited.
-/

namespace Sys2Proof.Machine

open Sys2Proof

/-! ### Frames of the shared operations -/

theorem keeps_refl (w : Writes) (s : State) : Keeps w s s := by
  constructor <;> intros <;> first | rfl | exact ⟨rfl, rfl⟩

theorem keeps_writeV (s : State) (x : Nibble) (b : Byte) : Keeps { v := [x] } s (s.writeV x b) := by
  constructor <;> intros <;> first | rfl | simp_all

theorem keeps_commit2 (s : State) (x : Nibble) (r f : Byte) :
    Keeps { v := [x, vf] } s (s.commit2 x r f) := by
  constructor <;> intros <;> first | simp | simp_all [State.readV_commit2]

theorem keeps_commit2_vf (s : State) (r f : Byte) :
    Keeps { v := [vf] } s (s.commit2 vf r f) := by
  constructor <;> intros <;> first | simp | simp_all [State.readV_commit2]

theorem keeps_skipIf (s : State) (c : Bool) : Keeps { pc := true } s (s.skipIf c) := by
  constructor <;> intros <;> first | rfl | simp_all

theorem keeps_storeBytes {s : State} (h : s.MemOk) (a : Nat) (bs : List Byte)
    (hr : a + bs.length ≤ 4096) :
    Keeps { bytes := byteRange a bs.length } s (s.storeBytes a bs) := by
  constructor <;> intros <;> first | simp | skip
  next b hb =>
    rw [State.readByte_storeBytes h _ _ _ hr, dif_neg]
    exact fun h' => hb (by simp only [byteRange, List.mem_map, List.mem_range]
                           exact ⟨b - a, h'.2, by omega⟩)

theorem keeps_loadV (s : State) (a : Nat) (x : Nibble) :
    Keeps { v := regsUpTo x } s (s.loadV a (x.toNat + 1)) := by
  have hx := x.isLt
  constructor <;> intros <;> first | simp | skip
  next r hr =>
    rw [State.readV_loadV _ _ _ (by omega), if_neg]
    exact fun h' => hr (by simp only [regsUpTo, List.mem_map, List.mem_range]
                           exact ⟨r.toNat, h', by simp⟩)

/-! ### The range check of an instruction -/

/-- An instruction that checks a range at I raises exactly where the range leaves memory (R48, R182). -/
theorem raises_of_range {i : Instr} {s t : State} {len : Nat}
    (h : exec i s = withRange s.i.toNat len s t) (hl : len ≠ 0) (hr : s.i.toNat + len > 4096) :
    RaisesDataOutOfRange i s := by
  rcases withRange_cases s.i.toNat len s t with ⟨_, _, h'⟩ | ⟨_, _⟩
  · refine ⟨_, ?_, h.trans h'⟩
    have := s.i.isLt
    simp only [BitVec.toNat_ofNat]; omega
  · omega

/-- A range inside memory, or an empty one, is no obstacle (R48). -/
theorem withRange_ok {s t : State} {a len : Nat} (h : len = 0 ∨ a + len ≤ 4096) :
    withRange a len s t = .next t := by
  rcases withRange_cases a len s t with ⟨_, _, _⟩ | ⟨_, h'⟩
  · omega
  · exact h'

/-! ### The stack instructions -/

/-- All that `00EE` answers. -/
theorem execRet_cases (s : State) :
    (s.sp = 0 ∧ execRet s = .next (s.fatal .stackUnderflow 0)) ∨
      (∃ k : Fin 16, s.sp.toNat = k.val + 1 ∧
        execRet s = .next { s with sp := s.sp - 1, pc := s.stack[k.val] }) ∨
      (s.sp.toNat > 16 ∧ execRet s = .fault .stackIndexOutOfRange) := by
  unfold execRet
  by_cases h0 : s.sp = 0
  · exact .inl ⟨h0, if_pos h0⟩
  · have hne : s.sp.toNat ≠ 0 := fun hn => h0 (BitVec.eq_of_toNat_eq (by simpa using hn))
    rw [if_neg h0]
    by_cases h : s.sp.toNat ≤ 16
    · rw [s.popPc_of_le h0 h]
      exact .inr (.inl ⟨⟨s.sp.toNat - 1, by omega⟩, by simp only; omega, rfl⟩)
    · refine .inr (.inr ⟨by omega, ?_⟩)
      rw [State.popPc, dif_neg (by rw [sp_sub_one_toNat h0]; omega)]

/-- All that `2NNN` answers. -/
theorem execCall_cases (nnn : Addr12) (s : State) :
    (s.sp = 16 ∧ execCall nnn s = .next (s.fatal .stackOverflow 0)) ∨
      (∃ k : Fin 16, s.sp.toNat = k.val ∧ execCall nnn s =
        .next { s with stack := s.stack.set k.val s.pc, sp := s.sp + 1, pc := addrWord nnn }) ∨
      (s.sp.toNat > 16 ∧ execCall nnn s = .fault .stackIndexOutOfRange) := by
  unfold execCall
  by_cases h0 : s.sp = 16
  · exact .inl ⟨h0, if_pos h0⟩
  · have hne : s.sp.toNat ≠ 16 := fun hn => h0 (BitVec.eq_of_toNat_eq (by simpa using hn))
    rw [if_neg h0]
    by_cases h : s.sp.toNat < 16
    · rw [s.push_of_lt _ h]
      exact .inr (.inl ⟨⟨s.sp.toNat, h⟩, rfl, rfl⟩)
    · refine .inr (.inr ⟨by omega, ?_⟩)
      rw [State.push, dif_neg h]

/-! ### The cycle -/

/-- All that a `CpuTick` answers (R83, R84, R181). -/
theorem cpuTick_cases (s : State) :
    (s.halt ≠ .none ∧ cpuTick s = .next s) ∨
      (s.halt = .none ∧ s.fetch = none ∧
        cpuTick s = .next (s.fatal .fetchOutOfRange s.fetchFaultAddr)) ∨
      (s.halt = .none ∧ ∃ op, s.fetch = some op ∧
        cpuTick s = exec (decode op) (s.fetched op)) := by
  unfold cpuTick
  cases s.halt with
  | none =>
    cases s.fetch with
    | none => exact .inr (.inl ⟨rfl, rfl, rfl⟩)
    | some op => exact .inr (.inr ⟨rfl, op, rfl, rfl⟩)
  | fetchOutOfRange | dataOutOfRange | stackOverflow | stackUnderflow =>
    exact .inl ⟨by simp, rfl⟩

/-! ### The events -/

/-- All that an event other than `Reset` can answer: what it does to a machine, or the refusal where there
is none (R185). -/
theorem onMachine_cases (s : State) (r : Result) :
    (s.created = true ∧ onMachine s r = r) ∨
      (s.created = false ∧ onMachine s r = .refused .noMachine) := by
  unfold onMachine
  cases s.created
  · exact .inr ⟨rfl, rfl⟩
  · exact .inl ⟨rfl, rfl⟩

/-- All that `Reset(rom)` answers (R210, R185). -/
theorem construct_cases (rom : List Byte) (s : State) :
    (rom.length ≤ 3584 ∧ construct rom s = .next (s.cleared.storeBytes 0x200 rom)) ∨
      (rom.length > 3584 ∧ construct rom s = .next { s.cleared with created := false }) := by
  unfold construct
  by_cases h : rom.length ≤ 3584
  · exact .inl ⟨h, if_pos h⟩
  · exact .inr ⟨by omega, if_neg h⟩

/-- The state a `Reset` starts from is the reset state but for the model's own fields. -/
theorem State.cleared_eq (s : State) : s.cleared =
    { State.reset with
      params := s.params, draws := s.draws, events := s.events, scheduled := s.scheduled } := rfl

/-- Where events wait, the oldest is taken (R90). -/
theorem State.takeEvent_cons {s : State} {e : Event} {rest : List Event} (h : s.events = e :: rest) :
    s.takeEvent = (e, { s with events := rest }) := by
  rw [State.takeEvent, h]

/-- Where none waits, the schedule drives the next one (R90). -/
theorem State.takeEvent_nil {s : State} (h : s.events = []) :
    s.takeEvent = (Config.schedule s.scheduled, { s with scheduled := s.scheduled + 1 }) := by
  rw [State.takeEvent, h]

/-- All that taking an event can change: the waiting events and the schedule's count. -/
theorem State.takeEvent_keeps (s : State) : s.takeEvent.2 =
    { s with events := s.takeEvent.2.events, scheduled := s.takeEvent.2.scheduled } := by
  cases h : s.events with
  | nil => rw [State.takeEvent_nil h]
  | cons e rest => rw [State.takeEvent_cons h]

@[simp] theorem State.takeEvent_v (s : State) : s.takeEvent.2.v = s.v := by
  rw [s.takeEvent_keeps]
@[simp] theorem State.takeEvent_i (s : State) : s.takeEvent.2.i = s.i := by
  rw [s.takeEvent_keeps]
@[simp] theorem State.takeEvent_pc (s : State) : s.takeEvent.2.pc = s.pc := by
  rw [s.takeEvent_keeps]
@[simp] theorem State.takeEvent_stack (s : State) : s.takeEvent.2.stack = s.stack := by
  rw [s.takeEvent_keeps]
@[simp] theorem State.takeEvent_sp (s : State) : s.takeEvent.2.sp = s.sp := by
  rw [s.takeEvent_keeps]
@[simp] theorem State.takeEvent_dt (s : State) : s.takeEvent.2.dt = s.dt := by
  rw [s.takeEvent_keeps]
@[simp] theorem State.takeEvent_st (s : State) : s.takeEvent.2.st = s.st := by
  rw [s.takeEvent_keeps]
@[simp] theorem State.takeEvent_fb (s : State) : s.takeEvent.2.fb = s.fb := by
  rw [s.takeEvent_keeps]
@[simp] theorem State.takeEvent_drawFlag (s : State) : s.takeEvent.2.drawFlag = s.drawFlag := by
  rw [s.takeEvent_keeps]
@[simp] theorem State.takeEvent_keys (s : State) : s.takeEvent.2.keys = s.keys := by
  rw [s.takeEvent_keeps]
@[simp] theorem State.takeEvent_ir (s : State) : s.takeEvent.2.ir = s.ir := by
  rw [s.takeEvent_keeps]
@[simp] theorem State.takeEvent_halt (s : State) : s.takeEvent.2.halt = s.halt := by
  rw [s.takeEvent_keeps]
@[simp] theorem State.takeEvent_faultAddr (s : State) : s.takeEvent.2.faultAddr = s.faultAddr := by
  rw [s.takeEvent_keeps]
@[simp] theorem State.takeEvent_mem (s : State) : s.takeEvent.2.mem = s.mem := by
  rw [s.takeEvent_keeps]
@[simp] theorem State.takeEvent_params (s : State) : s.takeEvent.2.params = s.params := by
  rw [s.takeEvent_keeps]
@[simp] theorem State.takeEvent_draws (s : State) : s.takeEvent.2.draws = s.draws := by
  rw [s.takeEvent_keeps]
@[simp] theorem State.takeEvent_created (s : State) : s.takeEvent.2.created = s.created := by
  rw [s.takeEvent_keeps]

end Sys2Proof.Machine
end

