-- ==== Sys2Proof/Laws/PerInstr.lean ====
section
/-!
SUPPORT. Per instruction: the encoding of a well-formed instruction lies in the row of the table the
instruction belongs to, `encode i & mask = match` (spec/30_encoding.md R65). One lemma per constructor.
-/

namespace Sys2Proof.Laws.EncodeInRow

open Sys2Proof

/-- The encoding of `i` is selected by the mask and match of `i`'s row. -/
def Statement (i : Instr) : Prop := i.wellFormed = true → encode i &&& i.row.1 = i.row.2

/-! ### The three masks that leave operand bits out -/

variable (f x y n : Nibble) (kk : Byte) (nnn : Addr12)

theorem wordA_mask : wordA f nnn &&& 0xF000 = wordA f 0 := by
  rw [show (0xF000 : Word) = (0xF#4 ++ 0x000#12 : BitVec 16) by decide, wordA, BitVec.and_append,
    show 15#4 = BitVec.allOnes 4 by decide, BitVec.and_allOnes]
  simp [wordA]

theorem wordXK_mask : wordXK f x kk &&& 0xF0FF = wordXK f 0 kk := by
  rw [show (0xF0FF : Word) = (0xF#4 ++ (0x0#4 ++ 0xFF#8 : BitVec 12) : BitVec 16) by decide, wordXK,
    wordA, BitVec.and_append, BitVec.and_append, show 15#4 = BitVec.allOnes 4 by decide,
    show 255#8 = BitVec.allOnes 8 by decide, BitVec.and_allOnes, BitVec.and_allOnes]
  simp [wordXK, wordA]

theorem wordXYN_mask : wordXYN f x y n &&& 0xF00F = wordXYN f 0 0 n := by
  rw [show (0xF00F : Word) =
      (0xF#4 ++ (0x0#4 ++ (0x0#4 ++ 0xF#4 : BitVec 8) : BitVec 12) : BitVec 16) by decide, wordXYN,
    wordXK, wordA, BitVec.and_append, BitVec.and_append, BitVec.and_append,
    show 15#4 = BitVec.allOnes 4 by decide, BitVec.and_allOnes, BitVec.and_allOnes]
  simp [wordXYN, wordXK, wordA]

/-- Families selected by the high nibble alone, whatever the format of their operands. -/
theorem family_mask (a : Addr12) (w : Word) (h : wordA f 0 = w) : wordA f a &&& 0xF000 = w :=
  (wordA_mask f a).trans h

/-! ### The constructors -/

theorem cls : Statement .cls := fun _ => by decide
theorem ret : Statement .ret := fun _ => by decide
theorem jp (nnn : Addr12) : Statement (.jp nnn) := fun _ => family_mask _ _ _ rfl
theorem call (nnn : Addr12) : Statement (.call nnn) := fun _ => family_mask _ _ _ rfl
theorem seImm (x : Nibble) (kk : Byte) : Statement (.seImm x kk) :=
  fun _ => family_mask _ _ _ rfl
theorem sneImm (x : Nibble) (kk : Byte) : Statement (.sneImm x kk) :=
  fun _ => family_mask _ _ _ rfl
theorem seReg (x y : Nibble) : Statement (.seReg x y) := fun _ => family_mask _ _ _ rfl
theorem ldImm (x : Nibble) (kk : Byte) : Statement (.ldImm x kk) :=
  fun _ => family_mask _ _ _ rfl
theorem addImm (x : Nibble) (kk : Byte) : Statement (.addImm x kk) :=
  fun _ => family_mask _ _ _ rfl
theorem ldReg (x y : Nibble) : Statement (.ldReg x y) :=
  fun _ => (wordXYN_mask ..).trans rfl
theorem orReg (x y : Nibble) : Statement (.orReg x y) :=
  fun _ => (wordXYN_mask ..).trans rfl
theorem andReg (x y : Nibble) : Statement (.andReg x y) :=
  fun _ => (wordXYN_mask ..).trans rfl
theorem xorReg (x y : Nibble) : Statement (.xorReg x y) :=
  fun _ => (wordXYN_mask ..).trans rfl
theorem addReg (x y : Nibble) : Statement (.addReg x y) :=
  fun _ => (wordXYN_mask ..).trans rfl
theorem sub (x y : Nibble) : Statement (.sub x y) := fun _ => (wordXYN_mask ..).trans rfl
theorem shr (x y : Nibble) : Statement (.shr x y) := fun _ => (wordXYN_mask ..).trans rfl
theorem subn (x y : Nibble) : Statement (.subn x y) := fun _ => (wordXYN_mask ..).trans rfl
theorem shl (x y : Nibble) : Statement (.shl x y) := fun _ => (wordXYN_mask ..).trans rfl
theorem sneReg (x y : Nibble) : Statement (.sneReg x y) := fun _ => family_mask _ _ _ rfl
theorem ldI (nnn : Addr12) : Statement (.ldI nnn) := fun _ => family_mask _ _ _ rfl
theorem jpV0 (nnn : Addr12) : Statement (.jpV0 nnn) := fun _ => family_mask _ _ _ rfl
theorem rnd (x : Nibble) (kk : Byte) : Statement (.rnd x kk) :=
  fun _ => family_mask _ _ _ rfl
theorem drw (x y n : Nibble) : Statement (.drw x y n) := fun _ => family_mask _ _ _ rfl
theorem skp (x : Nibble) : Statement (.skp x) := fun _ => (wordXK_mask ..).trans rfl
theorem sknp (x : Nibble) : Statement (.sknp x) := fun _ => (wordXK_mask ..).trans rfl
theorem ldVxDt (x : Nibble) : Statement (.ldVxDt x) := fun _ => (wordXK_mask ..).trans rfl
theorem ldDtVx (x : Nibble) : Statement (.ldDtVx x) := fun _ => (wordXK_mask ..).trans rfl
theorem ldStVx (x : Nibble) : Statement (.ldStVx x) := fun _ => (wordXK_mask ..).trans rfl
theorem addI (x : Nibble) : Statement (.addI x) := fun _ => (wordXK_mask ..).trans rfl
theorem ldF (x : Nibble) : Statement (.ldF x) := fun _ => (wordXK_mask ..).trans rfl
theorem ldB (x : Nibble) : Statement (.ldB x) := fun _ => (wordXK_mask ..).trans rfl
theorem ldMemVx (x : Nibble) : Statement (.ldMemVx x) := fun _ => (wordXK_mask ..).trans rfl
theorem ldVxMem (x : Nibble) : Statement (.ldVxMem x) := fun _ => (wordXK_mask ..).trans rfl
theorem unimpl88 (x y : Nibble) : Statement (.unimpl88 x y) :=
  fun _ => (wordXYN_mask ..).trans rfl
theorem unimpl89 (x y : Nibble) : Statement (.unimpl89 x y) :=
  fun _ => (wordXYN_mask ..).trans rfl
theorem unimpl8A (x y : Nibble) : Statement (.unimpl8A x y) :=
  fun _ => (wordXYN_mask ..).trans rfl
theorem unimpl8B (x y : Nibble) : Statement (.unimpl8B x y) :=
  fun _ => (wordXYN_mask ..).trans rfl
theorem unimpl8C (x y : Nibble) : Statement (.unimpl8C x y) :=
  fun _ => (wordXYN_mask ..).trans rfl
theorem unimpl8D (x y : Nibble) : Statement (.unimpl8D x y) :=
  fun _ => (wordXYN_mask ..).trans rfl
theorem unimpl8F (x y : Nibble) : Statement (.unimpl8F x y) :=
  fun _ => (wordXYN_mask ..).trans rfl
theorem unimpl0 (nnn : Addr12) : Statement (.unimpl0 nnn) := fun _ => family_mask _ _ _ rfl
theorem unimplE (x : Nibble) (kk : Byte) : Statement (.unimplE x kk) :=
  fun _ => family_mask _ _ _ rfl
theorem unimplF (x : Nibble) (kk : Byte) : Statement (.unimplF x kk) :=
  fun _ => family_mask _ _ _ rfl

end Sys2Proof.Laws.EncodeInRow
end

