-- ==== Sys2Proof/Machine/Asm.lean ====
section
/-!
DEFINITION. The assembler syntax (spec/30_encoding.md R65 fourth column, R70): how an instruction is
written, destination first, numbers in `0x` hexadecimal. The syntax is the spec's own choice (D22) and no
behaviour depends on it (assumption 26). An unimplemented encoding has no mnemonic; it is written as its two data bytes.
-/

namespace Sys2Proof

/-- A hexadecimal digit. -/
def hexDigit (n : Nibble) : Char :=
  match n.toNat with
  | 0x0 => '0' | 0x1 => '1' | 0x2 => '2' | 0x3 => '3'
  | 0x4 => '4' | 0x5 => '5' | 0x6 => '6' | 0x7 => '7'
  | 0x8 => '8' | 0x9 => '9' | 0xA => 'A' | 0xB => 'B'
  | 0xC => 'C' | 0xD => 'D' | 0xE => 'E' | _ => 'F'

/-- `V0` to `VF`. -/
def asmReg (x : Nibble) : List Char := ['V', hexDigit x]

/-- A 4-bit number. -/
def asmNibble (n : Nibble) : List Char := ['0', 'x', hexDigit n]

/-- An 8-bit number. -/
def asmByte (kk : Byte) : List Char :=
  ['0', 'x', hexDigit (kk.extractLsb' 4 4), hexDigit (kk.extractLsb' 0 4)]

/-- A 12-bit number. -/
def asmAddr (nnn : Addr12) : List Char :=
  ['0', 'x', hexDigit (nnn.extractLsb' 8 4), hexDigit (nnn.extractLsb' 4 4),
    hexDigit (nnn.extractLsb' 0 4)]

/-- Two operands, separated by a comma and a space. -/
def asmPair (a b : List Char) : List Char := a ++ [',', ' '] ++ b

/-- The two bytes of an encoding as data (`DB`). -/
def asmData (i : Instr) : List Char :=
  ['D', 'B', ' '] ++
    asmPair (asmByte ((encode i).extractLsb' 8 8)) (asmByte ((encode i).extractLsb' 0 8))

/-- The instruction as R65 and R70 write it, one character at a time. -/
def Instr.asm (i : Instr) : List Char :=
  match i with
  | .cls => ['C', 'L', 'S']
  | .ret => ['R', 'E', 'T']
  | .jp nnn => ['J', 'P', ' '] ++ asmAddr nnn
  | .call nnn => ['C', 'A', 'L', 'L', ' '] ++ asmAddr nnn
  | .seImm x kk => ['S', 'E', ' '] ++ asmPair (asmReg x) (asmByte kk)
  | .sneImm x kk => ['S', 'N', 'E', ' '] ++ asmPair (asmReg x) (asmByte kk)
  | .seReg x y => ['S', 'E', ' '] ++ asmPair (asmReg x) (asmReg y)
  | .ldImm x kk => ['L', 'D', ' '] ++ asmPair (asmReg x) (asmByte kk)
  | .addImm x kk => ['A', 'D', 'D', ' '] ++ asmPair (asmReg x) (asmByte kk)
  | .ldReg x y => ['L', 'D', ' '] ++ asmPair (asmReg x) (asmReg y)
  | .orReg x y => ['O', 'R', ' '] ++ asmPair (asmReg x) (asmReg y)
  | .andReg x y => ['A', 'N', 'D', ' '] ++ asmPair (asmReg x) (asmReg y)
  | .xorReg x y => ['X', 'O', 'R', ' '] ++ asmPair (asmReg x) (asmReg y)
  | .addReg x y => ['A', 'D', 'D', ' '] ++ asmPair (asmReg x) (asmReg y)
  | .sub x y => ['S', 'U', 'B', ' '] ++ asmPair (asmReg x) (asmReg y)
  | .shr x _ => ['S', 'H', 'R', ' '] ++ asmReg x
  | .subn x y => ['S', 'U', 'B', 'N', ' '] ++ asmPair (asmReg x) (asmReg y)
  | .shl x _ => ['S', 'H', 'L', ' '] ++ asmReg x
  | .sneReg x y => ['S', 'N', 'E', ' '] ++ asmPair (asmReg x) (asmReg y)
  | .ldI nnn => ['L', 'D', ' '] ++ asmPair ['I'] (asmAddr nnn)
  | .jpV0 nnn => ['J', 'P', ' '] ++ asmPair (asmReg 0) (asmAddr nnn)
  | .rnd x kk => ['R', 'N', 'D', ' '] ++ asmPair (asmReg x) (asmByte kk)
  | .drw x y n =>
    ['D', 'R', 'W', ' '] ++ asmPair (asmReg x) (asmPair (asmReg y) (asmNibble n))
  | .skp x => ['S', 'K', 'P', ' '] ++ asmReg x
  | .sknp x => ['S', 'K', 'N', 'P', ' '] ++ asmReg x
  | .ldVxDt x => ['L', 'D', ' '] ++ asmPair (asmReg x) ['D', 'T']
  | .ldDtVx x => ['L', 'D', ' '] ++ asmPair ['D', 'T'] (asmReg x)
  | .ldStVx x => ['L', 'D', ' '] ++ asmPair ['S', 'T'] (asmReg x)
  | .addI x => ['A', 'D', 'D', ' '] ++ asmPair ['I'] (asmReg x)
  | .ldF x => ['L', 'D', ' '] ++ asmPair ['F'] (asmReg x)
  | .ldB x => ['L', 'D', ' '] ++ asmPair ['B'] (asmReg x)
  | .ldMemVx x => ['L', 'D', ' '] ++ asmPair ['[', 'I', ']'] (asmReg x)
  | .ldVxMem x => ['L', 'D', ' '] ++ asmPair (asmReg x) ['[', 'I', ']']
  | .unimpl88 x y => asmData (.unimpl88 x y)
  | .unimpl89 x y => asmData (.unimpl89 x y)
  | .unimpl8A x y => asmData (.unimpl8A x y)
  | .unimpl8B x y => asmData (.unimpl8B x y)
  | .unimpl8C x y => asmData (.unimpl8C x y)
  | .unimpl8D x y => asmData (.unimpl8D x y)
  | .unimpl8F x y => asmData (.unimpl8F x y)
  | .unimpl0 nnn => asmData (.unimpl0 nnn)
  | .unimplE x kk => asmData (.unimplE x kk)
  | .unimplF x kk => asmData (.unimplF x kk)

end Sys2Proof
end

