-- ==== Sys2Proof/Tests/Slice0.lean ====
section
/-!
SUPPORT. The model's own tests. Words and expected results are those of spec/95_test_vectors.md (sections
1, 2, 3), unless a comment names another file; the witnesses at the end show, for each statement with
hypotheses, a state and operands that meet them.
-/

namespace Sys2Proof.Machine

open Sys2Proof

/-! ### Helpers -/

/-- The next state of an outcome, if it is one. -/
def answer : Result → Option State
  | .next t => some t
  | .fault _ => none
  | .refused _ => none

/-- One step of the machine that has word `w` at 0x200, from `s`. -/
def after (w : Nat) (s : State) : Option State := answer (step (s.withFetchWord 16 w))

/-- The reset state with `V[x] = a`, `V[y] = b`. -/
def with2 (x : Nibble) (a : Byte) (y : Nibble) (b : Byte) : State :=
  (State.reset.writeV x a).writeV y b

/-- `s` under the other value of P_FLAG_LAST. -/
def flagLast (s : State) : State := { s with params := { s.params with flagLast := true } }

/-- `s` under the other value of P_VCLIP. -/
def clipped (s : State) : State := { s with params := { s.params with vclip := true } }

/-- The cells that are on, as (x, y), row by row. -/
def litCells (s : State) : List (Nat × Nat) :=
  (List.finRange 32).flatMap fun y =>
    ((List.finRange 64).filter fun x => s.fb.cell y x).map fun x => (x.val, y.val)

/-! ### Well-formed terms: an ill-formed term for each check (spec/30_encoding.md R64) -/

theorem test_ill_formed_0 : (Instr.unimpl0 0x0E0).wellFormed = false ∧
    (Instr.unimpl0 0x0EE).wellFormed = false ∧ (Instr.unimpl0 0x0E1).wellFormed = true := by decide

theorem test_ill_formed_E : (Instr.unimplE 3 0x9E).wellFormed = false ∧
    (Instr.unimplE 3 0xA1).wellFormed = false ∧ (Instr.unimplE 3 0x9F).wellFormed = true := by decide

theorem test_ill_formed_F :
    (∀ kk ∈ [0x07, 0x15, 0x18, 0x1E, 0x29, 0x33, 0x55, 0x65],
      (Instr.unimplF 1 kk).wellFormed = false) ∧ (Instr.unimplF 1 0x0A).wellFormed = true := by decide

/-! ### Decoding: a word for every constructor (section 2, and the words of V-UNIMPL) -/

theorem test_decode_flow : decode 0x00E0 = .cls ∧ decode 0x00EE = .ret ∧ decode 0x1234 = .jp 0x234 ∧
    decode 0x220C = .call 0x20C ∧ decode 0xB300 = .jpV0 0x300 := by decide

theorem test_decode_skip : decode 0x3000 = .seImm 0 0 ∧ decode 0x4AFF = .sneImm 0xA 0xFF ∧
    decode 0x5120 = .seReg 1 2 ∧ decode 0x9120 = .sneReg 1 2 ∧ decode 0xE09E = .skp 0 ∧
    decode 0xE0A1 = .sknp 0 := by decide

theorem test_decode_alu : decode 0x60C8 = .ldImm 0 0xC8 ∧ decode 0x7102 = .addImm 1 2 ∧
    decode 0x8340 = .ldReg 3 4 ∧ decode 0x8341 = .orReg 3 4 ∧ decode 0x8342 = .andReg 3 4 ∧
    decode 0x8343 = .xorReg 3 4 ∧ decode 0x8014 = .addReg 0 1 ∧ decode 0x8105 = .sub 1 0 ∧
    decode 0x8206 = .shr 2 0 ∧ decode 0x8107 = .subn 1 0 ∧ decode 0x820E = .shl 2 0 ∧
    decode 0xC50F = .rnd 5 0x0F := by decide

theorem test_decode_index_display_timers : decode 0xA214 = .ldI 0x214 ∧
    decode 0xD102 = .drw 1 0 2 ∧ decode 0xF107 = .ldVxDt 1 ∧ decode 0xF015 = .ldDtVx 0 ∧
    decode 0xF018 = .ldStVx 0 ∧ decode 0xF01E = .addI 0 ∧ decode 0xF029 = .ldF 0 ∧
    decode 0xF033 = .ldB 0 ∧ decode 0xF255 = .ldMemVx 2 ∧ decode 0xF265 = .ldVxMem 2 := by decide

theorem test_decode_unimplemented : decode 0x8AB8 = .unimpl88 0xA 0xB ∧
    decode 0x8AB9 = .unimpl89 0xA 0xB ∧ decode 0x8ABA = .unimpl8A 0xA 0xB ∧
    decode 0x8ABB = .unimpl8B 0xA 0xB ∧ decode 0x8ABC = .unimpl8C 0xA 0xB ∧
    decode 0x8ABD = .unimpl8D 0xA 0xB ∧ decode 0x8ABF = .unimpl8F 0xA 0xB ∧
    decode 0x00E1 = .unimpl0 0x0E1 ∧ decode 0xE19F = .unimplE 1 0x9F ∧
    decode 0xF10A = .unimplF 1 0x0A := by decide

/-- The don't-care fields: 0x5AB3 (section 2), 0x5127 (V-SKIP), 0x81E6 (V-ALU). -/
theorem test_decode_dont_care : decode 0x5AB3 = .seReg 0xA 0xB ∧ decode 0x5127 = .seReg 1 2 ∧
    decode 0x81E6 = .shr 1 0xE := by decide

/-- Bytes: `JP 0x234` is 12 34, high byte first; one byte is no instruction (R45, R60). -/
theorem test_decode_bytes : decodeBytes [0x12, 0x34, 0xAB] = .ok (.jp 0x234, [0xAB]) ∧
    decodeBytes [0x12] = .error .truncated ∧ encodeBytes (.jp 0x234) = [0x12, 0x34] ∧
    decodeTableWord 16 0x1234 = some (.jp 0x234) := ⟨rfl, rfl, by decide, by decide⟩

/-- The assembler syntax of section 2, here for the words 0x4AFF, 0xB300, 0xF255 and 0x8206. -/
theorem test_asm : (decode 0x4AFF).asm = ['S', 'N', 'E', ' ', 'V', 'A', ',', ' ', '0', 'x', 'F', 'F'] ∧
    (decode 0xB300).asm = ['J', 'P', ' ', 'V', '0', ',', ' ', '0', 'x', '3', '0', '0'] ∧
    (decode 0xF255).asm = ['L', 'D', ' ', '[', 'I', ']', ',', ' ', 'V', '2'] ∧
    (decode 0x8206).asm = ['S', 'H', 'R', ' ', 'V', '2'] := by decide

/-! ### The cycle, the fetch and the events (V-FLOW, V-FAULT, V-EVT, S9, S10) -/

/-- S10: the fetch composes 0x1234, and the dispatch then jumps. -/
theorem test_fetch : (State.reset.withFetchWord 16 0x1234).fetch = some 0x1234 ∧
    ((after 0x1234 State.reset).map fun t => (t.ir, t.pc)) = some (0x1234, 0x234) := by decide

/-- `CpuTick` at PC = 4094 with 60 07 there: no fault, PC = 4096. -/
theorem test_fetch_at_top :
    ((after 0x6007 { State.reset with pc := 4094 }).map fun t => (t.readV 0, t.pc, t.halt)) =
      some (7, 4096, .none) := by decide

/-- `CpuTick` at PC = 4095: `halt = 1`, `fault_addr = 4096`, PC and IR unchanged. -/
theorem test_fetch_out_of_range :
    ((answer (step { State.reset with pc := 4095, ir := 0x1FFF, events := [.cpuTick] })).map fun t =>
      (haltCausePort t, t.faultAddr, t.pc, t.ir)) = some (1, 4096, 4095, 0x1FFF) := by decide

/-- 0x10FE, where `BNNN` can lead: `fault_addr` is the PC itself. -/
theorem test_fetch_far_out_of_range :
    ((answer (step { State.reset with pc := 0x10FE, events := [.cpuTick] })).map fun t =>
      (haltCausePort t, t.faultAddr)) = some (1, 0x10FE) := by decide

/-- PC = 0x201 is no fault: there is no alignment rule. -/
theorem test_fetch_odd :
    ((after 0x6105 { State.reset with pc := 0x201 }).map fun t => (t.readV 1, t.pc)) =
      some (5, 0x203) := by decide

/-- The event waiting is taken; timers at 2 and 0, at 1 and 1. -/
theorem test_timer_tick :
    ((answer (step { State.reset with dt := 2, events := [.timerTick] })).map fun t =>
      (t.dt, t.st, t.pc, t.events)) = some (1, 0, 0x200, []) ∧
    ((answer (step { State.reset with dt := 1, st := 1, events := [.timerTick] })).map fun t =>
      (t.dt, t.st, soundOn t)) = some (0, 0, false) := by decide

/-- `KeySet(3)` on {1} gives {1, 3}; `KeyClear(3)` on {1} gives {1}. -/
theorem test_key_events :
    ((answer (step { State.reset with keys := 2, events := [.keySet 3] })).map (·.keys)) =
      some 0b1010 ∧
    ((answer (step { State.reset with keys := 2, events := [.keyClear 3] })).map (·.keys)) =
      some 2 := by decide

/-- `FrameAck` clears `drawFlag`. -/
theorem test_frame_ack :
    ((answer (step { State.reset with events := [.frameAck] })).map (·.drawFlag)) = some false := by
  decide

/-- `Reset` with the ROM 12 00 AB. -/
theorem test_reset_rom :
    ((answer (step { State.reset with pc := 7, events := [.reset [0x12, 0x00, 0xAB]] })).map fun t =>
      (t.readBytes 0x200 4, t.readByte 0x1FF, t.readByte 0, t.readByte 0x4F, t.pc, t.drawFlag)) =
      some ([0x12, 0x00, 0xAB, 0x00], 0, 0xF0, 0x80, 0x200, true) := by decide

/-- A ROM of 3585 bytes, one too many. -/
def bigRom : List Byte := List.replicate 3585 0xAB

theorem bigRom_length : ¬ bigRom.length ≤ 3584 := by
  rw [bigRom, List.length_replicate]; omega

/-- `Reset` with more than 3584 bytes: `RomTooLarge` (code 5). -/
theorem test_reset_too_large {rom : List Byte} (h : ¬ rom.length ≤ 3584) :
    constructionReport { State.reset with events := [.reset rom] } = some 5 := if_neg h

/-- It makes no machine, from a halted one too, and sets no `halt` value. -/
theorem test_no_machine {rom : List Byte} (h : ¬ rom.length ≤ 3584) (c : Halt) : ∃ t,
    runEvent (.reset rom) { State.reset with halt := c, events := [.timerTick] } = .next t ∧
      t.created = false ∧ t.halt = .none ∧ step t = .refused .noMachine :=
  ⟨_, if_neg h, rfl, rfl, rfl⟩

theorem reset_too_large_answers {rom : List Byte} (h : ¬ rom.length ≤ 3584) (s : State) :
    ∃ t, runEvent (.reset rom) s = .next t := ⟨_, if_neg h⟩

/-- Where there is no machine a `Reset` makes one. -/
theorem test_reset_after_failure :
    ((answer (step { State.reset with created := false, events := [.reset [0x12, 0x00]] })).map fun t =>
      (t.created, t.readByte 0x200, t.pc)) = some (true, 0x12, 0x200) := by decide

/-- The unimplemented word 0x0000 is what the empty ROM runs, and the cycle reports it. -/
theorem test_empty_rom : stepReport { State.reset with events := [.cpuTick] } = some 0x0000 ∧
    ((answer (step { State.reset with events := [.cpuTick] })).map fun t => (t.ir, t.pc, t.halt)) =
      some (0, 0x202, .none) := by decide

/-- R90: from reset, where no event waits, the step is whatever event the free schedule drives first. -/
theorem test_schedule : step State.reset =
    runEvent (Config.schedule 0) { State.reset with scheduled := 1 } := rfl

/-! ### Control transfer (V-FLOW) -/

theorem test_jp : ((after 0x1ABC State.reset).map (·.pc)) = some 0xABC := by decide

theorem test_call :
    ((after 0x2300 { State.reset with sp := 15 }).map fun t => (t.stack[15], t.sp, t.pc)) =
      some (0x202, 16, 0x300) := by decide

theorem test_call_overflow :
    ((after 0x2300 { State.reset with sp := 16 }).map fun t =>
      (haltCausePort t, t.faultAddr, t.pc, t.ir, t.sp)) = some (3, 0, 0x202, 0x2300, 16) := by decide

theorem test_ret :
    ((after 0x00EE { State.reset with sp := 16, stack := State.reset.stack.set 15 0x0ABC }).map
      fun t => (t.sp, t.pc, t.stack[15])) = some (15, 0xABC, 0xABC) := by decide

theorem test_ret_underflow :
    ((after 0x00EE State.reset).map fun t => (haltCausePort t, t.faultAddr, t.pc, t.ir, t.sp)) =
      some (4, 0, 0x202, 0x00EE, 0) := by decide

theorem test_jp_v0 :
    ((after 0xB300 (with2 0 0x10 3 0x55)).map (·.pc)) = some 0x310 ∧
    ((after 0xBFFF (with2 0 0xFF 3 0x55)).map (·.pc)) = some 0x10FE := by decide

/-! ### Skips (V-SKIP) -/

theorem test_se_imm : ((after 0x3A42 (with2 0xA 0x42 0 0)).map (·.pc)) = some 0x204 ∧
    ((after 0x3A42 (with2 0xA 0x43 0 0)).map (·.pc)) = some 0x202 := by decide

theorem test_sne_imm : ((after 0x4A42 (with2 0xA 0x42 0 0)).map (·.pc)) = some 0x202 ∧
    ((after 0x4A42 (with2 0xA 0x43 0 0)).map (·.pc)) = some 0x204 := by decide

theorem test_se_reg : ((after 0x5127 (with2 1 9 2 9)).map (·.pc)) = some 0x204 ∧
    ((after 0x5120 (with2 1 9 2 8)).map (·.pc)) = some 0x202 := by decide

theorem test_sne_reg : ((after 0x9120 (with2 1 9 2 8)).map (·.pc)) = some 0x204 ∧
    ((after 0x9120 (with2 1 9 2 9)).map (·.pc)) = some 0x202 := by decide

/-- Key 5 pressed, key 5 not pressed, and code 0x15, which is never in the set. -/
theorem test_skp :
    ((after 0xE09E { with2 0 5 1 0 with keys := 0x20 }).map (·.pc)) = some 0x204 ∧
    ((after 0xE09E (with2 0 5 1 0)).map (·.pc)) = some 0x202 ∧
    ((after 0xE09E { with2 0 0x15 1 0 with keys := 0x20 }).map (·.pc)) = some 0x202 := by decide

theorem test_sknp :
    ((after 0xE0A1 { with2 0 5 1 0 with keys := 0x20 }).map (·.pc)) = some 0x202 ∧
    ((after 0xE0A1 { with2 0 5 1 0 with keys := 0x10 }).map (·.pc)) = some 0x204 ∧
    ((after 0xE0A1 { with2 0 0x15 1 0 with keys := 0xFFFF }).map (·.pc)) = some 0x204 := by decide

/-- A skip over the top of memory is no fault (PC = 0xFFC). -/
theorem test_skip_at_top :
    ((after 0x3000 { State.reset with pc := 0xFFC }).map fun t => (t.pc, t.halt)) =
      some (0x1000, .none) := by decide

/-! ### ALU (V-ALU, S1 to S3) -/

theorem test_ld_imm : ((after 0x6F07 State.reset).map (·.readV 0xF)) = some 7 := by decide

/-- S1: 250 + 10 is 4 and VF stays; with X = 0xF it is VF that becomes 4. -/
theorem test_add_imm :
    ((after 0x700A (with2 0 250 0xF 9)).map fun t => (t.readV 0, t.readV 0xF)) = some (4, 9) ∧
    ((after 0x7F0A (with2 0 0 0xF 250)).map (·.readV 0xF)) = some 4 := by decide

theorem test_ld_reg :
    ((after 0x8120 (with2 1 0 2 0x5A)).map fun t => (t.readV 1, t.readV 2)) = some (0x5A, 0x5A) := by
  decide

theorem test_or : ((after 0x8121 (with2 1 0xF0 2 0x0F)).map (·.readV 1)) = some 0xFF := by decide

theorem test_and : ((after 0x8122 (with2 1 0xF0 2 0x3C)).map (·.readV 1)) = some 0x30 := by decide

theorem test_xor : ((after 0x8123 (with2 1 0xF0 2 0x3C)).map (·.readV 1)) = some 0xCC ∧
    ((after 0x8113 (with2 1 0xAB 2 0)).map (·.readV 1)) = some 0 := by decide

theorem test_add_reg :
    ((after 0x8124 (with2 1 200 2 100)).map fun t => (t.readV 1, t.readV 0xF)) = some (44, 1) ∧
    ((after 0x8124 (with2 1 200 2 55)).map fun t => (t.readV 1, t.readV 0xF)) = some (255, 0) := by
  decide

/-- VF as an operand: Y = 0xF, and X = 0xF under both values of P_FLAG_LAST. -/
theorem test_add_reg_vf :
    ((after 0x81F4 (with2 1 200 0xF 100)).map fun t => (t.readV 1, t.readV 0xF)) = some (44, 1) ∧
    ((after 0x8F14 (with2 1 100 0xF 200)).map (·.readV 0xF)) = some 44 ∧
    ((after 0x8F14 (flagLast (with2 1 100 0xF 200))).map (·.readV 0xF)) = some 1 := by decide

theorem test_sub :
    ((after 0x8125 (with2 1 5 2 10)).map fun t => (t.readV 1, t.readV 0xF)) = some (251, 0) ∧
    ((after 0x8125 (with2 1 7 2 7)).map fun t => (t.readV 1, t.readV 0xF)) = some (0, 0) := by decide

theorem test_sub_vf : ((after 0x8F15 (with2 1 10 0xF 5)).map (·.readV 0xF)) = some 251 ∧
    ((after 0x8F15 (flagLast (with2 1 10 0xF 5))).map (·.readV 0xF)) = some 0 := by decide

theorem test_shr :
    ((after 0x81E6 (with2 1 0x05 0xE 0xAA)).map fun t => (t.readV 1, t.readV 0xF)) = some (2, 1) ∧
    ((after 0x8126 (with2 1 0x04 2 0)).map fun t => (t.readV 1, t.readV 0xF)) = some (2, 0) := by
  decide

theorem test_shr_vf : ((after 0x8F16 (with2 1 0 0xF 5)).map (·.readV 0xF)) = some 2 ∧
    ((after 0x8F16 (flagLast (with2 1 0 0xF 5))).map (·.readV 0xF)) = some 1 := by decide

theorem test_subn :
    ((after 0x8127 (with2 1 5 2 10)).map fun t => (t.readV 1, t.readV 0xF)) = some (5, 1) ∧
    ((after 0x8127 (with2 1 10 2 5)).map fun t => (t.readV 1, t.readV 0xF)) = some (251, 0) := by
  decide

theorem test_subn_vf : ((after 0x8F17 (with2 1 10 0xF 5)).map (·.readV 0xF)) = some 5 ∧
    ((after 0x8F17 (flagLast (with2 1 10 0xF 5))).map (·.readV 0xF)) = some 1 := by decide

theorem test_shl :
    ((after 0x812E (with2 1 0x81 2 0)).map fun t => (t.readV 1, t.readV 0xF)) = some (2, 1) ∧
    ((after 0x812E (with2 1 0x7F 2 0)).map fun t => (t.readV 1, t.readV 0xF)) = some (0xFE, 0) := by
  decide

theorem test_shl_vf : ((after 0x8F1E (with2 1 0 0xF 0x81)).map (·.readV 0xF)) = some 2 ∧
    ((after 0x8F1E (flagLast (with2 1 0 0xF 0x81))).map (·.readV 0xF)) = some 1 := by decide

/-- `0xC500` gives 0 for any random byte, and `0xC5FF` the random byte. -/
theorem test_rnd : (∃ t, exec (.rnd 5 0) (with2 5 9 1 0) = .next t ∧ t.readV 5 = 0) ∧
    ∃ t, exec (.rnd 5 0xFF) (with2 5 9 1 0) = .next t ∧ t.readV 5 = Config.rnd 0 :=
  ⟨⟨_, rfl, BitVec.and_zero⟩, ⟨_, rfl, BitVec.and_allOnes⟩⟩

/-! ### Index register and memory transfers (V-IDX, S7, S8) -/

theorem test_ld_i : ((after 0xAFFF State.reset).map (·.i)) = some 0xFFF := by decide

theorem test_add_i :
    ((after 0xF01E { with2 0 1 0xF 9 with i := 0xFFF }).map fun t => (t.i, t.readV 0xF)) =
      some (0x1000, 9) ∧
    ((after 0xF01E { with2 0 1 0xF 9 with i := 0xFFFF }).map (·.i)) = some 0 := by decide

theorem test_ld_f : ((after 0xF029 (with2 0 0x0A 1 0)).map (·.i)) = some 0x32 ∧
    ((after 0xF029 (with2 0 0xFF 1 0)).map (·.i)) = some 0x4FB := by decide

/-- S7 at the last address that fits. -/
theorem test_bcd :
    ((after 0xF033 { with2 0 157 1 0 with i := 4093 }).map fun t =>
      (t.readBytes 4093 3, t.i, t.halt)) = some ([1, 5, 7], 4093, .none) := by decide

theorem test_bcd_out_of_range :
    ((after 0xF033 { with2 0 157 1 0 with i := 4094 }).map fun t =>
      (haltCausePort t, t.faultAddr, t.readBytes 4094 2, t.pc)) = some (2, 4096, [0, 0], 0x202) := by
  decide

theorem test_store :
    ((after 0xF055 { with2 0 0x77 1 0 with i := 4095 }).map fun t => (t.readByte 4095, t.i, t.halt)) =
      some (0x77, 4095, .none) ∧
    ((after 0xF155 { with2 0 0x77 1 0 with i := 4095 }).map fun t =>
      (haltCausePort t, t.faultAddr, t.readByte 4095)) = some (2, 4096, 0) := by decide

/-- `FX65` at 0 reads the first 16 bytes of the font; at 4081 it raises and loads nothing. -/
theorem test_load :
    ((after 0xFF65 State.reset).map (·.v.toList)) =
      some [0xF0, 0x90, 0x90, 0x90, 0xF0, 0x20, 0x60, 0x20, 0x20, 0x70, 0xF0, 0x10, 0xF0, 0x80, 0xF0,
        0xF0] ∧
    ((after 0xFF65 { with2 0 7 1 0 with i := 4081 }).map fun t =>
      (haltCausePort t, t.faultAddr, t.readV 0)) = some (2, 4096, 7) := by decide

/-! ### Display (V-DRW) -/

theorem test_cls :
    ((after 0x00E0 { State.reset with fb := State.reset.fb.setCell 3 9 true, drawFlag := false }).map
      fun t => (litCells t, t.drawFlag)) = some ([], true) := by decide

/-- `0xD013` with 0xC3 three times at (60, 30): wraps to the right and to the top. -/
theorem test_drw_wraps :
    ((after 0xD013 (({ with2 0 60 1 30 with i := 0x300 }).storeBytes 0x300 [0xC3, 0xC3, 0xC3])).map
      fun t => (litCells t, t.readV 0xF)) =
      some ([(2, 0), (3, 0), (60, 0), (61, 0), (2, 30), (3, 30), (60, 30), (61, 30),
        (2, 31), (3, 31), (60, 31), (61, 31)], 0) := by decide

/-- Rows below row 31 are dropped under P_VCLIP; a lit cell under a 1 bit collides, under a 0 bit not. -/
theorem test_drw_clips_and_collides :
    ((after 0xD013 (clipped (({ with2 0 0 1 31 with i := 0x300 }).storeBytes 0x300
      [0x80, 0x80, 0x80]))).map litCells) = some [(0, 31)] ∧
    ((after 0xD011 (({ State.reset with i := 0x300, fb := State.reset.fb.setCell 0 0 true }).storeBytes
      0x300 [0xC0])).map fun t => (litCells t, t.readV 0xF)) = some ([(1, 0)], 1) := by decide

/-! ### Timers (V-TMR) -/

theorem test_ld_vx_dt :
    ((after 0xF107 { State.reset with dt := 2 }).map fun t => (t.readV 1, t.dt)) = some (2, 2) := by
  decide

theorem test_ld_dt_vx :
    ((after 0xF015 (with2 0 2 1 0)).map fun t => (t.dt, t.st)) = some (2, 0) := by decide

theorem test_ld_st_vx :
    ((after 0xF018 (with2 0 3 1 0)).map fun t => (t.dt, t.st, soundStarts (with2 0 3 1 0) t)) =
      some (0, 3, true) := by decide

/-! ### Unimplemented encodings (V-UNIMPL) -/

/-- Each word runs as the report of itself, with only IR and PC changed and the `CpuTick` taken. -/
theorem test_unimplemented :
    ∀ w ∈ [0x0123, 0x8AB8, 0x8AB9, 0x8ABA, 0x8ABB, 0x8ABC, 0x8ABD, 0x8ABF, 0xE19F, 0xF10A],
      stepReport (State.reset.withFetchWord 16 w) = some (BitVec.ofNat 16 w) ∧
      after w State.reset =
        some { State.reset.withFetchWord 16 w with
          ir := BitVec.ofNat 16 w, pc := 0x202, events := [] } := by decide

/-! ### Witnesses: the hypotheses of each statement are met, at the boundary of each clause -/

/-- A legal state in use: a call made, a byte of memory written, I at the last address, a `CpuTick` waiting. -/
def busy : State :=
  ({ with2 0 0x60 1 0x07 with
    sp := 1, stack := State.reset.stack.set 0 0x202, i := 4095, pc := 0x300,
    events := [.cpuTick] }).storeBytes 0x300
    [0xF0, 0x55]

theorem witness_DecodeOfEncode : (Instr.unimplF 0xF 0xFF).wellFormed = true ∧
    (Instr.drw 0xF 0xF 0xF).wellFormed = true := by decide

theorem witness_RowSelectedByMaskAndMatch :
    (Instr.shr 1 2).unimplemented = false ∧ (0x81E6 : Word) &&& (Instr.shr 1 2).row.1 = (Instr.shr 1 2).row.2 ∧
      (0x81E7 : Word) &&& (Instr.shr 1 2).row.1 ≠ (Instr.shr 1 2).row.2 := by decide

theorem witness_StepTakesOldestEvent : State.reset.events = [] ∧
    { State.reset with events := [.timerTick, .frameAck] }.events = .timerTick :: [.frameAck] := by
  decide

/-- The last address a fetch may have. -/
theorem witness_StepRunsDecodedInstruction_at_top :
    let s : State := { State.reset with pc := 4094, events := [.cpuTick] }
    let s0 : State := { State.reset with pc := 4094 }
    s.takeEvent = (.cpuTick, s0) ∧ s0.created = true ∧ s0.halt = .none ∧ s0.pc.toNat + 1 ≤ 4095 ∧
      decodeBytes (s0.readBytes s0.pc.toNat 2) = .ok (.unimpl0 0, []) :=
  ⟨rfl, by decide, by decide, by decide, rfl⟩

theorem witness_StepRunsDecodedInstruction :
    let s : State := { busy with events := [.cpuTick, .timerTick] }
    let s0 : State := { busy with events := [.timerTick] }
    s.takeEvent = (.cpuTick, s0) ∧ s0.created = true ∧ s0.halt = .none ∧ s0.pc.toNat + 1 ≤ 4095 ∧
      decodeBytes (s0.readBytes s0.pc.toNat 2) = .ok (.ldMemVx 0, []) :=
  ⟨rfl, by decide, by decide, by decide, rfl⟩

theorem witness_InstructionCycle :
    ({ State.reset with halt := .stackUnderflow }).halt ≠ .none ∧
    (({ State.reset with pc := 4095 }).halt = .none ∧
      ({ State.reset with pc := 4095 }).pc.toNat + 1 > 4095) ∧
    (({ State.reset with pc := 4094 }).halt = .none ∧
      ({ State.reset with pc := 4094 }).pc.toNat + 1 ≤ 4095) := by decide

theorem witness_FrameAckClearsDrawFlag :
    State.reset.created = true ∧ State.reset.drawFlag = true ∧
    ({ State.reset with drawFlag := false }).created = true ∧
    ({ State.reset with drawFlag := false }).drawFlag = false := by decide

theorem witness_TimerTickCountsDown_KeyEventsChangeOneKey : busy.created = true ∧
    ({ busy with halt := .dataOutOfRange }).created = true := by decide

/-- A start edge and the three stop edges. -/
theorem witness_SoundEdges :
    (∃ t, runEvent .cpuTick ((with2 0 3 1 0).withFetchWord 16 0xF018) = .next t ∧
      soundStarts ((with2 0 3 1 0).withFetchWord 16 0xF018) t = true) ∧
    (∃ t, runEvent .timerTick { State.reset with st := 1 } = .next t ∧
      soundStops { State.reset with st := 1 } t = true) ∧
    (∃ t, runEvent (.reset []) { State.reset with st := 9 } = .next t ∧
      soundStops { State.reset with st := 9 } t = true) ∧
    ∃ t, runEvent .cpuTick ({ State.reset with st := 5 }.withFetchWord 16 0xF018) = .next t ∧
      soundStops ({ State.reset with st := 5 }.withFetchWord 16 0xF018) t = true :=
  ⟨⟨_, rfl, by decide⟩, ⟨_, rfl, by decide⟩, ⟨_, rfl, by decide⟩, ⟨_, rfl, by decide⟩⟩

theorem witness_SelfJumpChangesNothing :
    let s : State := { State.reset with ir := 0x1200 }.withFetchWord 16 0x1200
    s.halt = .none ∧ s.fetch = some (wordA 0x1 0x200) ∧ s.ir = wordA 0x1 0x200 ∧
      s.pc.toNat = (0x200 : Addr12).toNat := by decide

theorem witness_RomLengthLimit : (List.replicate 3585 (0xAB : Byte)).length > 3584 ∧
    (List.replicate 3584 (0xAB : Byte)).length ≤ 3584 := by
  simp only [List.length_replicate]; omega

theorem witness_ResetBuildsTheMachine : (List.replicate 3584 (0xAB : Byte)).length ≤ 3584 := by
  simp only [List.length_replicate]; omega

/-- A step that writes memory, from a state with memory listed. -/
theorem witness_StepKeepsMemoryCanonical :
    busy.MemOk ∧ ∃ t, step busy = .next t ∧ t.readByte 4095 = 0x60 :=
  ⟨by decide, _, rfl, by decide⟩

/-- A step that raises a fatal condition at execute time, from a state with a call made. -/
theorem witness_StepKeepsControlLegal :
    busy.ControlOk ∧ (∃ t, step busy = .next t) ∧
    ({ busy with i := 0xFFFF }).ControlOk ∧
      ∃ t, step { busy with i := 0xFFFF } = .next t ∧ t.halt = .dataOutOfRange :=
  ⟨by decide, ⟨_, rfl⟩, by decide, _, rfl, by decide⟩

theorem witness_EveryInstructionAnswersANextState : State.reset.sp.toNat ≤ 16 ∧
    ({ State.reset with sp := 16 }).sp.toNat ≤ 16 := by decide

/-- A state with no machine. -/
def noMachine : State := { State.reset with created := false, events := [.cpuTick] }

/-- Each of the three answers of a step. -/
theorem witness_StepStopsOnlyWhereTheSpecSays :
    ({ State.reset with sp := 16, events := [.cpuTick] }).sp.toNat ≤ 16 ∧
    (∃ t, step { State.reset with sp := 16, events := [.cpuTick] } = .next t) ∧
    noMachine.sp.toNat ≤ 16 ∧ step noMachine = .refused .noMachine ∧
    ({ State.reset with drawFlag := false, events := [.frameAck] }).sp.toNat ≤ 16 ∧
    step { State.reset with drawFlag := false, events := [.frameAck] } = .refused .frameAckNotEnabled :=
  ⟨by decide, ⟨_, rfl⟩, by decide, rfl, by decide, rfl⟩

theorem witness_HaltedUntilReset :
    let s : State := { busy with halt := .stackOverflow }
    s.halt ≠ .none ∧ (∃ t, runEvent .cpuTick s = .next t) ∧ (∃ t, runEvent .timerTick s = .next t) ∧
      ∃ t, runEvent (.reset []) s = .next t :=
  ⟨by decide, ⟨_, rfl⟩, ⟨_, rfl⟩, ⟨_, rfl⟩⟩

/-- Each instruction that raises a fatal condition, at the boundary. -/
theorem witness_FatalEntryIsPrecise :
    (∃ t, exec (.call 0x300) { State.reset with sp := 16 } = .next t ∧ t.halt ≠ .none) ∧
    (∃ t, exec .ret State.reset = .next t ∧ t.halt ≠ .none) ∧
    (∃ t, exec (.ldB 0) { State.reset with i := 4094 } = .next t ∧ t.halt ≠ .none) ∧
    (∃ t, exec (.ldMemVx 1) { State.reset with i := 4095 } = .next t ∧ t.halt ≠ .none) ∧
    (∃ t, exec (.ldVxMem 0) { State.reset with i := 4096 } = .next t ∧ t.halt ≠ .none) ∧
    ∃ t, exec (.drw 0 1 15) { State.reset with i := 0xFFFF } = .next t ∧ t.halt ≠ .none :=
  ⟨⟨_, rfl, by decide⟩, ⟨_, rfl, by decide⟩, ⟨_, rfl, by decide⟩, ⟨_, rfl, by decide⟩,
    ⟨_, rfl, by decide⟩, ⟨_, rfl, by decide⟩⟩

theorem witness_OnlyBcdAndRegisterStoreWriteMemory :
    (∃ t, exec (.ldVxMem 0xF) busy = .next t) ∧ (∀ x, Instr.ldVxMem 0xF ≠ .ldB x) ∧
      ∀ x, Instr.ldVxMem 0xF ≠ .ldMemVx x :=
  ⟨⟨_, rfl⟩, by simp, by simp⟩

theorem witness_OnlyFlagWritersChangeVF :
    (∃ t, exec (.addReg 0 1) (with2 0 200 1 100) = .next t ∧
      t.readV vf ≠ (with2 0 200 1 100).readV vf) ∧
    (∃ t, exec (.ldImm vf 7) State.reset = .next t ∧ t.readV vf ≠ State.reset.readV vf) ∧
    (∃ t, exec (.ldReg vf 0) busy = .next t ∧ t.readV vf ≠ busy.readV vf) ∧
    (∃ t, exec (.ldVxDt vf) { busy with dt := 3 } = .next t ∧ t.readV vf ≠ busy.readV vf) ∧
    ∃ t, exec (.ldVxMem vf) State.reset = .next t ∧ t.readV vf ≠ State.reset.readV vf :=
  ⟨⟨_, rfl, by decide⟩, ⟨_, rfl, by decide⟩, ⟨_, rfl, by decide⟩, ⟨_, rfl, by decide⟩,
    ⟨_, rfl, by decide⟩⟩

/-- Each clause: some instruction changes the register. -/
theorem witness_RegistersChangeOnlyByTheirWriters :
    (∃ t, exec (.ldF 0) busy = .next t ∧ t.i ≠ busy.i) ∧
    (∃ t, exec (.ldDtVx 0) busy = .next t ∧ t.dt ≠ busy.dt) ∧
    (∃ t, exec (.ldStVx 0) busy = .next t ∧ t.st ≠ busy.st) ∧
    (∃ t, exec .ret busy = .next t ∧ t.sp ≠ busy.sp ∧ t.pc ≠ busy.pc) ∧
    (∃ t, exec (.call 0x400) busy = .next t ∧ t.stack ≠ busy.stack) ∧
    (∃ t, exec (.drw 0 1 1) { State.reset with drawFlag := false } = .next t ∧
      t.fb ≠ State.reset.fb ∧ t.drawFlag ≠ false) ∧
    busy.drawFlag = true :=
  ⟨⟨_, rfl, by decide⟩, ⟨_, rfl, by decide⟩, ⟨_, rfl, by decide⟩, ⟨_, rfl, by decide⟩,
    ⟨_, rfl, by decide⟩, ⟨_, rfl, by decide⟩, by decide⟩

theorem witness_NoInstructionReadsHiddenState : ∃ t, exec (.ldVxDt 0) busy = .next t := ⟨_, rfl⟩

theorem witness_StoredCodeIsFetchedNext :
    let s : State := { busy with i := 4094, pc := 4094 }
    s.MemOk ∧ s.i = s.pc ∧ 1 ≤ (1 : Nibble).toNat ∧ s.i.toNat + (1 : Nibble).toNat ≤ 4095 := by decide

/-- SP = 0, and the two ends of the range that pops. -/
theorem witness_ReturnPopsTheStack : State.reset.sp = 0 ∧
    ({ State.reset with sp := 1 }).sp.toNat = (0 : Fin 16).val + 1 ∧
    ({ State.reset with sp := 16 }).sp.toNat = (15 : Fin 16).val + 1 := by decide

/-- SP = 16, and the two ends of the range that pushes. -/
theorem witness_CallPushesTheStack : ({ State.reset with sp := 16 }).sp = 16 ∧
    State.reset.sp.toNat = (0 : Fin 16).val ∧
    ({ State.reset with sp := 15 }).sp.toNat = (15 : Fin 16).val := by decide

theorem witness_StackPointerAboveSixteenStops : ({ busy with sp := 17 }).sp.toNat > 16 ∧
    ({ busy with sp := 255 }).sp.toNat > 16 := by decide

theorem witness_ReturnUndoesCall :
    let s : State := { busy with sp := 15 }
    s.sp.toNat < 16 ∧ ∃ t, exec (.call 0x400) s = .next t ∧
      ({ t with i := 7, dt := 9 }).sp = t.sp ∧ ({ t with i := 7, dt := 9 }).stack = t.stack :=
  ⟨by decide, _, rfl, rfl, rfl⟩

theorem witness_flag_register_not_destination : (0xE : Nibble) ≠ vf ∧ (0 : Nibble) ≠ vf := by decide

/-- FX33: both clauses meet between I = 4093 and I = 4094. -/
theorem witness_BcdStoresThreeDigits :
    ({ busy with i := 4094 }).i.toNat + 2 > 4095 ∧
    ({ busy with i := 4093 }).MemOk ∧ ({ busy with i := 4093 }).i.toNat + 2 ≤ 4095 := by decide

/-- FX55: both clauses meet between I + X = 4095 and I + X = 4096. -/
theorem witness_StoreRegisters :
    busy.i.toNat + (1 : Nibble).toNat > 4095 ∧
    busy.MemOk ∧ busy.i.toNat + (0 : Nibble).toNat ≤ 4095 ∧
    ({ busy with i := 4080 }).MemOk ∧ ({ busy with i := 4080 }).i.toNat + (0xF : Nibble).toNat ≤ 4095 := by
  decide

/-- FX65: the same boundary. -/
theorem witness_LoadRegisters :
    ({ busy with i := 4081 }).i.toNat + (0xF : Nibble).toNat > 4095 ∧
    ({ busy with i := 4080 }).i.toNat + (0xF : Nibble).toNat ≤ 4095 := by decide

/-- S8: the registers are zeroed between the store and the load. -/
theorem witness_LoadReadsBackStore :
    let s : State := { busy with i := 4092 }
    s.MemOk ∧ s.i.toNat + (3 : Nibble).toNat ≤ 4095 ∧ ∃ t, exec (.ldMemVx 3) s = .next t ∧
      let u : State := { t with v := State.reset.v }
      u.mem = t.mem ∧ u.params = t.params ∧ u.i = t.i ∧ u.readV 0 ≠ s.readV 0 :=
  ⟨by decide, by decide, _, rfl, rfl, rfl, rfl, by decide⟩

/-- DXYN: out of range, no rows, and the last range inside memory. -/
theorem witness_DrawXorsTheSprite :
    ((2 : Nibble) ≠ 0 ∧ busy.i.toNat + (2 : Nibble).toNat > 4096) ∧
    ((0 : Nibble) = 0 ∨ ({ busy with i := 0xFFFF }).i.toNat + (0 : Nibble).toNat ≤ 4096) ∧
    ((1 : Nibble) = 0 ∨ busy.i.toNat + (1 : Nibble).toNat ≤ 4096) := by decide

/-- The first glyph drawn on a blank screen: no 1 bit of it falls on a lit cell, and it has one. -/
theorem witness_DrawTwiceRestores :
    (0 : Nibble) ≠ vf ∧ (1 : Nibble) ≠ vf ∧
    ((5 : Nibble) = 0 ∨ State.reset.i.toNat + (5 : Nibble).toNat ≤ 4096) ∧
    (∃ t, exec (.drw 0 1 5) State.reset = .next t) ∧
    (∀ row col, State.reset.spriteBit 0 1 5 row col = true → State.reset.fb.cell row col = false) ∧
    ∃ row col, State.reset.spriteBit 0 1 5 row col = true :=
  ⟨by decide, by decide, by decide, ⟨_, rfl⟩, fun row col _ => by revert row col; decide, 0, 0, by decide⟩

theorem witness_UnimplementedIsReported :
    unimplReport State.reset = some 0x0000 ∧
    unimplReport (State.reset.withFetchWord 16 0xF10A) = some 0xF10A := by decide

/-- A ROM of one byte too many, and the longest one that fits. -/
theorem witness_FailedConstruction : bigRom.length > 3584 ∧
    (∃ t, runEvent (.reset bigRom) busy = .next t) ∧
    (∀ rom, Event.cpuTick ≠ .reset rom) ∧ (List.replicate 3584 (0xAB : Byte)).length ≤ 3584 :=
  ⟨Nat.lt_of_not_le bigRom_length, reset_too_large_answers bigRom_length busy, by simp, by rw [List.length_replicate]⟩

theorem witness_ResetFollowsAFailedConstruction :
    let s : State := { busy with events := [.reset bigRom, .reset [0x12, 0x00], .timerTick] }
    s.events = .reset bigRom :: .reset [0x12, 0x00] :: [.timerTick] ∧ bigRom.length > 3584 ∧
      ([0x12, 0x00] : List Byte).length ≤ 3584 :=
  ⟨rfl, Nat.lt_of_not_le bigRom_length, by decide⟩

end Sys2Proof.Machine
end

section
/-!
PROOF. The ALU instructions that write a result and a flag (spec/43_alu.md R120, R127 to R131): their flags
and results as arithmetic on naturals, the single `commit2` each of them answers, and X = 0xF.
-/

namespace Sys2Proof.Machine

open Sys2Proof

/-! ### Flags and results as naturals -/

theorem flagByte_toNat (b : Bool) : (flagByte b).toNat = b.toNat := by
  cases b <;> rfl

/-- The carry of `8XY4` (R127). -/
theorem addFlag_toNat (a b : Byte) :
    (addFlag a b).toNat = if a.toNat + b.toNat > 255 then 1 else 0 := by
  rw [addFlag, flagByte_toNat, Bool.toNat, Bool.cond_decide]

/-- The flag of `8XY5` and `8XY7`, the comparison strict (R128, R130). -/
theorem subFlag_toNat (a b : Byte) :
    (subFlag a b).toNat = if a.toNat > b.toNat then 1 else 0 := by
  rw [subFlag, flagByte_toNat, Bool.toNat, Bool.cond_decide]

/-- The bit that `8XY6` shifts out (R129). -/
theorem shrFlag_toNat (a : Byte) : (shrFlag a).toNat = a.toNat % 2 := by
  rw [shrFlag, flagByte_toNat, BitVec.getLsbD, Nat.toNat_testBit, Nat.pow_zero, Nat.div_one]

/-- The bit that `8XYE` shifts out, as 0 or 1 (R131). -/
theorem shlFlag_toNat (a : Byte) : (shlFlag a).toNat = a.toNat / 128 := by
  have := a.isLt
  rw [shlFlag, flagByte_toNat, BitVec.getLsbD, Nat.toNat_testBit]
  omega

/-- A difference wraps modulo 256 (R128, R130). -/
theorem byte_sub_toNat (a b : Byte) : (a - b).toNat = (a.toNat + 256 - b.toNat) % 256 := by
  have := b.isLt
  rw [BitVec.toNat_sub]
  omega

/-- The result of `8XY6` (R129). -/
theorem byte_shr_one_toNat (a : Byte) : (a >>> 1).toNat = a.toNat / 2 := by
  rw [BitVec.toNat_ushiftRight, Nat.shiftRight_one]

/-- The result of `8XYE` (R131). -/
theorem byte_shl_one_toNat (a : Byte) : (a <<< 1).toNat = a.toNat * 2 % 256 := by
  rw [BitVec.toNat_shiftLeft, Nat.shiftLeft_eq]

/-! ### The five instructions that call `commit2` -/

section
variable (x y : Nibble) (s : State)

theorem exec_addReg : exec (.addReg x y) s =
    .next (s.commit2 x (s.readV x + s.readV y) (addFlag (s.readV x) (s.readV y))) := rfl

theorem exec_sub : exec (.sub x y) s =
    .next (s.commit2 x (s.readV x - s.readV y) (subFlag (s.readV x) (s.readV y))) := rfl

theorem exec_shr : exec (.shr x y) s =
    .next (s.commit2 x (s.readV x >>> 1) (shrFlag (s.readV x))) := rfl

theorem exec_subn : exec (.subn x y) s =
    .next (s.commit2 x (s.readV y - s.readV x) (subFlag (s.readV y) (s.readV x))) := rfl

theorem exec_shl : exec (.shl x y) s =
    .next (s.commit2 x (s.readV x <<< 1) (shlFlag (s.readV x))) := rfl

end

/-! ### X = 0xF -/

/-- VF after `commit2` with VF as the destination: P_FLAG_LAST chooses (R120, decision D6). -/
theorem State.readV_commit2_vf (s : State) (r f : Byte) :
    (s.commit2 vf r f).readV vf = if s.params.flagLast then f else r := by
  rw [State.readV_commit2]
  cases s.params.flagLast <;> simp

/-- An instruction that answers `commit2` on VF changes VF alone, to the flag or to the result as
P_FLAG_LAST says; `flag` and `result` are the two as naturals. -/
theorem answers_commit2_vf {i : Instr} {s : State} {r f : Byte} {result flag : Nat}
    (hi : exec i s = .next (s.commit2 vf r f)) (hf : f.toNat = flag) (hr : r.toNat = result) :
    ∃ t : State, exec i s = .next t ∧ Keeps { v := [vf] } s t ∧
      (t.readV vf).toNat = if s.params.flagLast then flag else result :=
  ⟨_, hi, keeps_commit2_vf s r f, by
    rw [State.readV_commit2_vf, apply_ite BitVec.toNat, hf, hr]⟩

/-- Settles O44: each of the five instructions is one `commit2` on VF, with its flag and its result read
from the operands before it. -/
theorem flagRegisterAsDestination : Obligations.FlagRegisterAsDestination := fun s y =>
  ⟨_, _, rfl, rfl,
    answers_commit2_vf (exec_addReg vf y s) (addFlag_toNat _ _) (BitVec.toNat_add _ _),
    answers_commit2_vf (exec_sub vf y s) (subFlag_toNat _ _) (byte_sub_toNat _ _),
    answers_commit2_vf (exec_shr vf y s) (shrFlag_toNat _) (byte_shr_one_toNat _),
    answers_commit2_vf (exec_subn vf y s) (subFlag_toNat _ _) (byte_sub_toNat _ _),
    answers_commit2_vf (exec_shl vf y s) (shlFlag_toNat _) (byte_shl_one_toNat _)⟩

end Sys2Proof.Machine
end

section
/-!
PROOF. What an instruction may write (spec/10_state.md R20): one table, and that `exec` either keeps to it or
enters a fatal condition.
-/

namespace Sys2Proof.Machine

open Sys2Proof

/-! ### Memory at the addresses a store does not name -/

theorem Memory.find_erase_of_ne {a b : Nat} (h : b ≠ a) (m : Memory) :
    Memory.find b (Memory.erase a m) = Memory.find b m := by
  induction m with
  | nil => rfl
  | cons c m ih =>
    obtain ⟨c, w⟩ := c
    rw [Memory.erase]
    split
    · next hac => rw [Memory.find, if_neg (hac ▸ h)]
    · rw [Memory.find, Memory.find, ih]

theorem State.readByte_storeByte_of_ne (s : State) {a b : Nat} (h : b ≠ a) (v : Byte) :
    (s.storeByte a v).readByte b = s.readByte b := by
  unfold State.storeByte State.readByte
  dsimp only
  split
  · split
    · rw [Memory.find_erase_of_ne h]
    · rw [Memory.find_insert, if_neg h]
  · rfl

/-- A store of several bytes keeps every byte outside its range, be memory canonical or not (R47). -/
theorem State.readByte_storeBytes_of_notMem (s : State) {a b : Nat} {bs : List Byte}
    (h : b ∉ byteRange a bs.length) : (s.storeBytes a bs).readByte b = s.readByte b := by
  simp only [byteRange, List.mem_map, List.mem_range, not_exists, not_and] at h
  induction bs generalizing s a with
  | nil => rfl
  | cons v bs ih =>
    simp only [List.length_cons] at h
    have hne : b ≠ a := fun he => h 0 (by omega) (by omega)
    rw [State.storeBytes, ih _ fun k hk he => h (k + 1) (by omega) (by omega),
      State.readByte_storeByte_of_ne s hne]

theorem keeps_storeBytes_range (s : State) (a : Nat) (bs : List Byte) :
    Keeps { bytes := byteRange a bs.length } s (s.storeBytes a bs) := by
  have e := s.storeBytes_eq a bs
  rw [e]
  exact { keeps_refl _ s with bytes := fun b hb => e ▸ s.readByte_storeBytes_of_notMem hb }

/-! ### The table of writes -/

/-- What each instruction may write where it enters no fatal condition (R20, column "written by"). -/
def writesOf (s : State) : Instr → Writes
  | .cls => { fb := true, drawFlag := true }
  | .ret | .call _ => { pc := true, stack := true }
  | .jp _ | .jpV0 _ => { pc := true }
  | .seImm _ _ | .sneImm _ _ | .seReg _ _ | .sneReg _ _ | .skp _ | .sknp _ => { pc := true }
  | .ldImm x _ | .addImm x _ | .ldReg x _ | .orReg x _ | .andReg x _ | .xorReg x _ => { v := [x] }
  | .ldVxDt x => { v := [x] }
  | .addReg x _ | .sub x _ | .shr x _ | .subn x _ | .shl x _ => { v := [x, vf] }
  | .rnd x _ => { v := [x], draws := true }
  | .ldI _ | .addI _ | .ldF _ => { i := true }
  | .drw _ _ _ => { v := [vf], fb := true, drawFlag := true }
  | .ldDtVx _ => { dt := true }
  | .ldStVx _ => { st := true }
  | .ldB _ => { bytes := byteRange s.i.toNat 3 }
  | .ldMemVx x => { bytes := byteRange s.i.toNat (x.toNat + 1) }
  | .ldVxMem x => { v := regsUpTo x }
  | .unimpl88 _ _ | .unimpl89 _ _ | .unimpl8A _ _ | .unimpl8B _ _ | .unimpl8C _ _ | .unimpl8D _ _
  | .unimpl8F _ _ | .unimpl0 _ | .unimplE _ _ | .unimplF _ _ => {}

/-- Only `00EE` and `2NNN` write the stack (R25). -/
theorem eq_of_writesOf_stack {s : State} {i : Instr} (h : (writesOf s i).stack = true) :
    i = .ret ∨ ∃ nnn, i = .call nnn := by
  cases i <;> simp [writesOf] at h ⊢

/-- The writers of PC (R24). -/
theorem eq_of_writesOf_pc {s : State} {i : Instr} (h : (writesOf s i).pc = true) :
    i = .ret ∨ (∃ nnn, i = .jp nnn ∨ i = .call nnn ∨ i = .jpV0 nnn) ∨
      (∃ x kk, i = .seImm x kk ∨ i = .sneImm x kk) ∨ (∃ x y, i = .seReg x y ∨ i = .sneReg x y) ∨
      ∃ x, i = .skp x ∨ i = .sknp x := by
  cases i <;> simp [writesOf] at h ⊢

theorem eq_vf_of_vf_mem_regsUpTo {x : Nibble} (h : vf ∈ regsUpTo x) : x = vf := by
  simp only [regsUpTo, List.mem_map, List.mem_range] at h
  obtain ⟨k, hk, he⟩ := h
  have hx := x.isLt
  have : k % 16 = 15 := by simpa [vf] using congrArg BitVec.toNat he
  exact BitVec.eq_of_toNat_eq (by simp [vf]; omega)

/-- The instructions that may write VF: those with a flag, and those that name it as destination (R22). -/
theorem eq_of_vf_mem_writesOf {s : State} {i : Instr} (h : vf ∈ (writesOf s i).v) :
    (∃ x y, i = .addReg x y ∨ i = .sub x y ∨ i = .shr x y ∨ i = .subn x y ∨ i = .shl x y ∨
      ∃ n, i = .drw x y n) ∨
    (∃ kk, i = .ldImm vf kk ∨ i = .addImm vf kk ∨ i = .rnd vf kk) ∨
    (∃ y, i = .ldReg vf y ∨ i = .orReg vf y ∨ i = .andReg vf y ∨ i = .xorReg vf y) ∨
    i = .ldVxDt vf ∨ i = .ldVxMem vf := by
  cases i with
  | addReg | sub | shr | subn | shl | drw => simp
  | ldImm | addImm | ldReg | orReg | andReg | xorReg | rnd | ldVxDt =>
    obtain rfl := List.mem_singleton.1 h
    simp
  | ldVxMem x => simp [eq_vf_of_vf_mem_regsUpTo h]
  | _ => simp [writesOf] at h

/-! ### `exec` keeps to the table or enters a fatal condition -/

/-- The record of a memory condition at an effective address (R180, decision D8). -/
theorem State.fatal_haltOk_of_memory (s : State) {c : Halt} (a : Word)
    (hc : c = .fetchOutOfRange ∨ c = .dataOutOfRange) :
    (s.fatal c (BitVec.ofNat 17 (max a.toNat 4096))).HaltOk := by
  have := a.isLt
  have hn : (BitVec.ofNat 17 (max a.toNat 4096)).toNat = max a.toNat 4096 := by
    rw [BitVec.toNat_ofNat]; omega
  rw [State.HaltOk, State.fatal_halt, State.fatal_faultAddr, if_pos hc, hn]
  omega

/-- The record of a stack condition: no address (R180, decision D8). -/
theorem State.fatal_haltOk_of_stack (s : State) {c : Halt}
    (hc : c = .stackOverflow ∨ c = .stackUnderflow) : (s.fatal c 0).HaltOk := by
  rcases hc with rfl | rfl <;> rfl

/-- A range check at I ends in the state the instruction goes to, or in a fatal condition with its record
(R48, R182). -/
theorem withRange_keeps_or_fatal {w : Writes} {s t u : State} {len : Nat} (hk : Keeps w s u)
    (h : withRange s.i.toNat len s u = .next t) :
    Keeps w s t ∨ ∃ c addr, t = s.fatal c addr ∧ t.HaltOk := by
  rcases withRange_cases s.i.toNat len s u with ⟨_, _, e⟩ | ⟨_, e⟩ <;> cases e.symm.trans h
  · exact .inr ⟨_, _, rfl, s.fatal_haltOk_of_memory s.i (.inr rfl)⟩
  · exact .inl hk

/-- All that an instruction can do to the state: it writes what the table names, or it enters a fatal
condition, which writes `halt` and `fault_addr` (R20, R187). -/
theorem exec_keeps_or_fatal {i : Instr} {s t : State} (h : exec i s = .next t) :
    Keeps (writesOf s i) s t ∨ ∃ c addr, t = s.fatal c addr ∧ t.HaltOk := by
  cases i with
  | cls => cases h; exact .inl { keeps_refl _ s with fb := nofun, drawFlag := nofun }
  | ret =>
    rcases execRet_cases s with ⟨_, e⟩ | ⟨k, _, e⟩ | ⟨_, e⟩ <;> cases e.symm.trans h
    · exact .inr ⟨_, _, rfl, s.fatal_haltOk_of_stack (.inr rfl)⟩
    · exact .inl { keeps_refl _ s with pc := nofun, stack := nofun }
  | call nnn =>
    rcases execCall_cases nnn s with ⟨_, e⟩ | ⟨k, _, e⟩ | ⟨_, e⟩ <;> cases e.symm.trans h
    · exact .inr ⟨_, _, rfl, s.fatal_haltOk_of_stack (.inl rfl)⟩
    · exact .inl { keeps_refl _ s with pc := nofun, stack := nofun }
  | jp | jpV0 => cases h; exact .inl { keeps_refl _ s with pc := nofun }
  | seImm | sneImm | seReg | sneReg | skp | sknp => cases h; exact .inl (keeps_skipIf s _)
  | ldImm | addImm | ldReg | orReg | andReg | xorReg | ldVxDt =>
    cases h; exact .inl (keeps_writeV s _ _)
  | addReg | sub | shr | subn | shl => cases h; exact .inl (keeps_commit2 s _ _ _)
  | rnd x kk => cases h; exact .inl { keeps_writeV s x _ with draws := nofun }
  | ldI | addI | ldF => cases h; exact .inl { keeps_refl _ s with i := nofun }
  | ldDtVx => cases h; exact .inl { keeps_refl _ s with dt := nofun }
  | ldStVx => cases h; exact .inl { keeps_refl _ s with st := nofun }
  | drw =>
    refine withRange_keeps_or_fatal ?_ h
    exact { keeps_writeV s vf _ with fb := nofun, drawFlag := nofun }
  | ldB x => exact withRange_keeps_or_fatal (keeps_storeBytes_range s _ (bcdDigits (s.readV x))) h
  | ldMemVx x =>
    have hk := keeps_storeBytes_range s s.i.toNat (s.firstV x)
    rw [s.firstV_length] at hk
    exact withRange_keeps_or_fatal hk h
  | ldVxMem x => exact withRange_keeps_or_fatal (keeps_loadV s _ x) h
  | unimpl88 | unimpl89 | unimpl8A | unimpl8B | unimpl8C | unimpl8D | unimpl8F | unimpl0 | unimplE
  | unimplF => cases h; exact .inl (keeps_refl _ s)

/-! ### VF -/

/-- Settles O26: an instruction that changes VF has VF among the registers the table names. -/
theorem onlyFlagWritersChangeVF : Obligations.OnlyFlagWritersChangeVF := by
  intro i s t h hne
  rcases exec_keeps_or_fatal h with hk | ⟨c, addr, rfl, _⟩
  · have hmem : vf ∈ (writesOf s i).v := by
      by_contra hn
      exact hne (hk.v vf hn)
    exact eq_of_vf_mem_writesOf hmem
  · exact absurd (s.fatal_readV c addr vf) hne

end Sys2Proof.Machine
end

section
/-!
PROOF. The control state stays legal (spec/10_state.md R24, R25, R31; spec/41_flow.md R100).
-/

namespace Sys2Proof.Machine

open Sys2Proof

/-! ### What `Keeps` says of the control state -/

section
variable {w : Writes} {s t : State}

theorem Keeps.haltOk (hk : Keeps w s t) (hs : s.HaltOk) : t.HaltOk := by
  rw [State.HaltOk, hk.halt, hk.faultAddr]; exact hs

theorem Keeps.stackOk (hk : Keeps w s t) (hw : w.stack = false) (hs : s.StackOk) : t.StackOk := by
  obtain ⟨hsp, hstack⟩ := hk.stack hw
  rw [State.StackOk, hsp, hstack]; exact hs

theorem Keeps.pcOk (hk : Keeps w s t) (hw : w.pc = false) (hs : s.PcOk) : t.PcOk := by
  rw [State.PcOk, hk.pc hw]; exact hs

end

/-! ### The stack -/

/-- A call of a legal address keeps the entries in use legal (R102). -/
theorem execCall_stackOk {nnn : Addr12} {s t : State} (hs : s.StackOk)
    (hpc : 2 ≤ s.pc.toNat ∧ s.pc.toNat ≤ 4096) (h : execCall nnn s = .next t) : t.StackOk := by
  obtain ⟨hsp, hentry⟩ := hs
  rcases execCall_cases nnn s with ⟨_, e⟩ | ⟨k, hk, e⟩ | ⟨_, e⟩ <;> cases e.symm.trans h
  · exact ⟨hsp, hentry⟩
  · have hsp' : (s.sp + 1).toNat = k.val + 1 := by bv_omega
    refine ⟨by simp only [hsp']; omega, fun j hj => ?_⟩
    simp only [hsp', Vector.getElem_set] at hj ⊢
    split
    · exact hpc
    · exact hentry j (by omega)

/-- A return keeps the entries in use legal and leads to what a call pushed (R100). -/
theorem execRet_stackOk_pcOk {s t : State} (hs : s.StackOk) (hpc : s.PcOk)
    (h : execRet s = .next t) : t.StackOk ∧ t.PcOk := by
  obtain ⟨hsp, hentry⟩ := hs
  rcases execRet_cases s with ⟨_, e⟩ | ⟨k, hk, e⟩ | ⟨_, e⟩ <;> cases e.symm.trans h
  · exact ⟨⟨hsp, hentry⟩, hpc⟩
  · have hsp' : (s.sp - 1).toNat = k.val := by
      rw [sp_sub_one_toNat (fun h0 => by simp [h0] at hk), hk]; rfl
    refine ⟨⟨by simp only [hsp']; omega, fun j hj => hentry j ?_⟩, ?_⟩
    · simp only [hsp'] at hj; omega
    · have := hentry k (by omega)
      simp only [State.PcOk]; omega

theorem exec_stackOk {i : Instr} {s t : State} (hs : s.ControlOk)
    (hpc : 2 ≤ s.pc.toNat ∧ s.pc.toNat ≤ 4096) (h : exec i s = .next t) : t.StackOk := by
  obtain ⟨hstack, hpcOk, _⟩ := hs
  rcases exec_keeps_or_fatal h with hk | ⟨c, addr, rfl, _⟩
  · cases hw : (writesOf s i).stack with
    | false => exact hk.stackOk hw hstack
    | true =>
      rcases eq_of_writesOf_stack hw with rfl | ⟨nnn, rfl⟩
      · exact (execRet_stackOk_pcOk hstack hpcOk h).1
      · exact execCall_stackOk hstack hpc h
  · exact hstack

/-! ### PC -/

theorem addrWord_toNat (nnn : Addr12) : (addrWord nnn).toNat = nnn.toNat := by
  have := nnn.isLt
  rw [addrWord, BitVec.toNat_setWidth]; omega

theorem byteWord_toNat (b : Byte) : (byteWord b).toNat = b.toNat := by
  have := b.isLt
  rw [byteWord, BitVec.toNat_setWidth]; omega

/-- An address field is a legal PC (R101, R102). -/
theorem addrWord_le (nnn : Addr12) : (addrWord nnn).toNat ≤ 0x10FE := by
  have := nnn.isLt
  rw [addrWord_toNat]; omega

/-- The greatest PC: `V[0] = 0xFF` and `NNN = 0xFFF` (R103). -/
theorem byteWord_add_addrWord_le (b : Byte) (nnn : Addr12) :
    (byteWord b + addrWord nnn).toNat ≤ 0x10FE := by
  have := b.isLt
  have := nnn.isLt
  rw [BitVec.toNat_add, byteWord_toNat, addrWord_toNat]; omega

/-- PC does not wrap where it advances (R24). -/
theorem pc_add_two_toNat {pc : Word} (h : pc.toNat ≤ 4096) : (pc + 2).toNat = pc.toNat + 2 := by
  bv_omega

/-- A skip adds at most 2 to a PC that a fetch has left (R110). -/
theorem State.skipIf_pcOk {s : State} (hpc : s.pc.toNat ≤ 4096) (c : Bool) : (s.skipIf c).PcOk := by
  have h2 := pc_add_two_toNat hpc
  rw [State.PcOk, State.skipIf_pc]
  split <;> omega

theorem execCall_pcOk {nnn : Addr12} {s t : State} (hs : s.PcOk) (h : execCall nnn s = .next t) :
    t.PcOk := by
  rcases execCall_cases nnn s with ⟨_, e⟩ | ⟨k, _, e⟩ | ⟨_, e⟩ <;> cases e.symm.trans h
  · exact hs
  · exact addrWord_le nnn

theorem exec_pcOk {i : Instr} {s t : State} (hs : s.ControlOk) (hpc : s.pc.toNat ≤ 4096)
    (h : exec i s = .next t) : t.PcOk := by
  obtain ⟨hstack, hpcOk, _⟩ := hs
  rcases exec_keeps_or_fatal h with hk | ⟨c, addr, rfl, _⟩
  · cases hw : (writesOf s i).pc with
    | false => exact hk.pcOk hw hpcOk
    | true =>
      rcases eq_of_writesOf_pc hw with rfl | ⟨nnn, rfl | rfl | rfl⟩ | ⟨x, kk, rfl | rfl⟩ |
        ⟨x, y, rfl | rfl⟩ | ⟨x, rfl | rfl⟩
      · exact (execRet_stackOk_pcOk hstack hpcOk h).2
      · cases h; exact addrWord_le nnn
      · exact execCall_pcOk hpcOk h
      · cases h; exact byteWord_add_addrWord_le _ nnn
      all_goals cases h; exact State.skipIf_pcOk hpc _
  · exact hpcOk

/-! ### From the instruction to the step -/

/-- On a PC that a fetch has left, an instruction keeps the control state legal. -/
theorem exec_controlOk {i : Instr} {s t : State} (hs : s.ControlOk)
    (hpc : 2 ≤ s.pc.toNat ∧ s.pc.toNat ≤ 4096) (h : exec i s = .next t) : t.ControlOk := by
  refine ⟨exec_stackOk hs hpc h, exec_pcOk hs hpc.2 h, ?_⟩
  obtain ⟨_, _, hhalt⟩ := hs
  rcases exec_keeps_or_fatal h with hk | ⟨_, _, _, ht⟩
  · exact hk.haltOk hhalt
  · exact ht

theorem cpuTick_controlOk {s t : State} (hs : s.ControlOk) (h : cpuTick s = .next t) :
    t.ControlOk := by
  obtain ⟨hstack, hpc, hhalt⟩ := hs
  rcases cpuTick_cases s with ⟨_, e⟩ | ⟨_, _, e⟩ | ⟨_, op, hop, e⟩
  · cases e.symm.trans h
    exact ⟨hstack, hpc, hhalt⟩
  · cases e.symm.trans h
    exact ⟨hstack, hpc, s.fatal_haltOk_of_memory s.pc (.inl rfl)⟩
  · have hle : s.pc.toNat ≤ 4094 := by
      rcases s.fetch_cases with ⟨hle, _⟩ | ⟨_, hn⟩
      · exact hle
      · cases hn.symm.trans hop
    have hadv : (s.fetched op).pc.toNat = s.pc.toNat + 2 := pc_add_two_toNat (by omega)
    have hs' : (s.fetched op).ControlOk := ⟨hstack, by rw [State.PcOk]; omega, hhalt⟩
    exact exec_controlOk hs' (by omega) (e.symm.trans h)

/-- A `Reset` leaves the control state of the reset state, with a machine or without (R210, R185). -/
theorem construct_controlOk {rom : List Byte} {s t : State} (h : construct rom s = .next t) :
    t.ControlOk := by
  have hreset : s.cleared.ControlOk := show State.reset.ControlOk by decide
  rcases construct_cases rom s with ⟨_, e⟩ | ⟨_, e⟩ <;> cases e.symm.trans h
  · rw [State.storeBytes_eq]; exact hreset
  · exact hreset

/-- An event that answers a next state acts on a machine (R185). -/
theorem of_onMachine_next {s t : State} {r : Result} (h : onMachine s r = .next t) : r = .next t := by
  rcases onMachine_cases s r with ⟨_, e⟩ | ⟨_, e⟩
  · exact e.symm.trans h
  · cases e.symm.trans h

theorem runEvent_controlOk {e : Event} {s t : State} (hs : s.ControlOk)
    (h : runEvent e s = .next t) : t.ControlOk := by
  cases e with
  | reset rom => exact construct_controlOk h
  | cpuTick => exact cpuTick_controlOk hs (of_onMachine_next h)
  | timerTick | keySet | keyClear => cases of_onMachine_next h; exact hs
  | frameAck =>
    have hack := of_onMachine_next h
    rw [frameAck] at hack
    split at hack <;> cases hack
    exact hs

/-- Settles O20: the event acts on the state it was taken from, whose control state is the same. -/
theorem stepKeepsControlLegal : Obligations.StepKeepsControlLegal := by
  intro s t hs h
  have htaken : s.takeEvent.2.ControlOk := by rw [s.takeEvent_keeps]; exact hs
  exact runEvent_controlOk htaken h

end Sys2Proof.Machine
end

section
/-!
PROOF. `00EE` and `2NNN` by the value of SP (spec/41_flow.md R100, R102): the pop, the push, and SP above 16.
-/

namespace Sys2Proof.Machine

open Sys2Proof

section
variable {s : State}

theorem exec_ret_pop {k : Fin 16} (h : s.sp.toNat = k.val + 1) :
    exec .ret s = .next { s with sp := s.sp - 1, pc := s.stack[k.val] } := by
  rcases execRet_cases s with ⟨h0, _⟩ | ⟨j, hj, e⟩ | ⟨hgt, _⟩
  · simp [h0] at h
  · obtain rfl : j = k := Fin.ext (by omega)
    exact e
  · omega

theorem exec_call_push {k : Fin 16} (nnn : Addr12) (h : s.sp.toNat = k.val) : exec (.call nnn) s =
    .next { s with stack := s.stack.set k.val s.pc, sp := s.sp + 1, pc := addrWord nnn } := by
  rcases execCall_cases nnn s with ⟨h16, _⟩ | ⟨j, hj, e⟩ | ⟨hgt, _⟩
  · have : k.val = 16 := by simpa [h16] using h.symm
    omega
  · obtain rfl : j = k := Fin.ext (by omega)
    exact e
  · omega

theorem exec_ret_above (h : s.sp.toNat > 16) : exec .ret s = .fault .stackIndexOutOfRange := by
  rcases execRet_cases s with ⟨h0, _⟩ | ⟨k, hk, _⟩ | ⟨_, e⟩
  · simp [h0] at h
  · omega
  · exact e

theorem exec_call_above (nnn : Addr12) (h : s.sp.toNat > 16) :
    exec (.call nnn) s = .fault .stackIndexOutOfRange := by
  rcases execCall_cases nnn s with ⟨h16, _⟩ | ⟨k, hk, _⟩ | ⟨_, e⟩
  · simp [h16] at h
  · omega
  · exact e

end

/-- Settles O34: of the three answers of each stack instruction only the fault is for SP above 16. -/
theorem stackPointerAboveSixteenStops : Obligations.StackPointerAboveSixteenStops :=
  fun _ nnn hsp => ⟨exec_ret_above hsp, exec_call_above nnn hsp⟩

end Sys2Proof.Machine
end

section
/-!
PROOF. What no instruction reads: ST, `drawFlag`, IR, `halt`, `fault_addr` (spec/10_state.md R26, R28, R30,
R31). Each operation commutes with giving those five fields other values.
-/

namespace Sys2Proof.Machine

open Sys2Proof

/-- `s` with the five fields no instruction reads taken from `r`. -/
def State.withHidden (s r : State) : State :=
  { s with st := r.st, drawFlag := r.drawFlag, ir := r.ir, halt := r.halt, faultAddr := r.faultAddr }

section
variable (s r : State)

theorem State.commit2_withHidden (x : Nibble) (a b : Byte) :
    (s.withHidden r).commit2 x a b = (s.commit2 x a b).withHidden r := by
  rw [State.commit2, State.commit2, State.withHidden]
  split <;> rfl

theorem State.storeBytes_withHidden (a : Nat) (bs : List Byte) :
    (s.withHidden r).storeBytes a bs = (s.storeBytes a bs).withHidden r := by
  induction bs generalizing s a with
  | nil => rfl
  | cons b bs ih => exact ih (s.storeByte a b) (a + 1)

theorem State.loadV_withHidden (a n : Nat) :
    (s.withHidden r).loadV a n = (s.loadV a n).withHidden r := by
  induction n with
  | zero => rfl
  | succ n ih => rw [State.loadV, ih]; rfl

end

/-- The range check looks at neither state, and what it raises overwrites hidden fields only. -/
theorem withRange_withHidden {s t t' u r q : State} {a len : Nat} (ht : t' = t.withHidden q)
    (h : withRange a len s t = .next u) :
    ∃ r', withRange a len (s.withHidden r) t' = .next (u.withHidden r') := by
  rcases checkRange_cases a len with ⟨_, _, e⟩ | ⟨_, e⟩ <;>
    simp only [withRange, e] at h ⊢ <;> cases h
  · exact ⟨r.fatal _ _, rfl⟩
  · exact ⟨q, congrArg _ ht⟩

/-- No instruction's effect on the other fields depends on the five (R26, R28, R30, R31). -/
theorem exec_withHidden {i : Instr} {s t : State} (h : exec i s = .next t) (r : State) :
    ∃ r', exec i (s.withHidden r) = .next (t.withHidden r') := by
  cases i with
  | cls => cases h; exact ⟨{ r with drawFlag := true }, rfl⟩
  | ret =>
    rcases execRet_cases s with ⟨h0, e⟩ | ⟨k, hk, e⟩ | ⟨_, e⟩ <;> cases e.symm.trans h
    · exact ⟨r.fatal .stackUnderflow 0, if_pos h0⟩
    · exact ⟨r, exec_ret_pop (s := s.withHidden r) hk⟩
  | call nnn =>
    rcases execCall_cases nnn s with ⟨h16, e⟩ | ⟨k, hk, e⟩ | ⟨_, e⟩ <;> cases e.symm.trans h
    · exact ⟨r.fatal .stackOverflow 0, if_pos h16⟩
    · exact ⟨r, exec_call_push (s := s.withHidden r) nnn hk⟩
  | ldStVx x => cases h; exact ⟨{ r with st := s.readV x }, rfl⟩
  | addReg | sub | shr | subn | shl =>
    cases h; exact ⟨r, congrArg Host.Outcome.next (s.commit2_withHidden r _ _ _)⟩
  | drw => exact withRange_withHidden (q := { r with drawFlag := true }) rfl h
  | ldB | ldMemVx => exact withRange_withHidden (s.storeBytes_withHidden r _ _) h
  | ldVxMem => exact withRange_withHidden (s.loadV_withHidden r _ _) h
  | jp | jpV0 | seImm | sneImm | seReg | sneReg | skp | sknp | ldImm | addImm | ldReg | orReg | andReg
  | xorReg | ldVxDt | rnd | ldI | addI | ldF | ldDtVx | unimpl88 | unimpl89 | unimpl8A | unimpl8B
  | unimpl8C | unimpl8D | unimpl8F | unimpl0 | unimplE | unimplF => cases h; exact ⟨r, rfl⟩

/-- Settles O28: an instruction run under other values of the five fields ends in a state that differs
from the first in those fields alone. -/
theorem noInstructionReadsHiddenState : Obligations.NoInstructionReadsHiddenState := by
  intro i s t st flag ir halt addr h
  obtain ⟨r', e⟩ :=
    exec_withHidden h { s with st := st, drawFlag := flag, ir := ir, halt := halt, faultAddr := addr }
  exact ⟨t.withHidden r', e, rfl⟩

end Sys2Proof.Machine
end

section
/-!
PROOF. Which instructions write memory (spec/20_memory.md R43).
-/

namespace Sys2Proof.Machine

open Sys2Proof

/-- Every instruction but `FX33` and `FX55` has no byte among its writes (R43). -/
theorem writesOf_bytes_eq_nil {s : State} {i : Instr} (hbcd : ∀ x, i ≠ .ldB x)
    (hstore : ∀ x, i ≠ .ldMemVx x) : (writesOf s i).bytes = [] := by
  cases i with
  | ldB x => exact absurd rfl (hbcd x)
  | ldMemVx x => exact absurd rfl (hstore x)
  | _ => rfl

/-- Settles O25: an instruction writes the bytes the table names or enters a fatal condition, and neither
touches memory here. -/
theorem onlyBcdAndRegisterStoreWriteMemory : Obligations.OnlyBcdAndRegisterStoreWriteMemory := by
  intro i s t h hbcd hstore a
  rcases exec_keeps_or_fatal h with hk | ⟨c, addr, rfl, _⟩
  · refine hk.bytes a ?_
    rw [writesOf_bytes_eq_nil hbcd hstore]
    exact List.not_mem_nil
  · exact s.fatal_readByte c addr a

end Sys2Proof.Machine
end

section
/-!
PROOF. Decoding an encoding, and the words that are no instruction (spec/30_encoding.md R60 to R62, R66): the
second level of families 0, 8, 0xE and 0xF, the dispatch on the family, and the bytes of a word.
-/

namespace Sys2Proof

/-! ### The second level: which keys select no instruction -/

section
variable (x y n : Nibble) (kk : Byte) (nnn : Addr12)

theorem wellFormed_unimpl0_iff : (Instr.unimpl0 nnn).wellFormed = true ↔ nnn ∉ [0x0E0, 0x0EE] := by
  simp [Instr.wellFormed, keyUsed0]

theorem wellFormed_unimplE_iff : (Instr.unimplE x kk).wellFormed = true ↔ kk ∉ [0x9E, 0xA1] := by
  simp [Instr.wellFormed, keyUsedE]

theorem wellFormed_unimplF_iff : (Instr.unimplF x kk).wellFormed = true ↔
    kk ∉ [0x07, 0x15, 0x18, 0x1E, 0x29, 0x33, 0x55, 0x65] := by
  simp [Instr.wellFormed, keyUsedF, and_assoc]

variable {kk nnn}

theorem decode0_of_not_mem (h : nnn ∉ [0x0E0, 0x0EE]) : decode0 nnn = .unimpl0 nnn := by
  simp only [List.mem_cons, List.not_mem_nil, or_false, not_or] at h
  simp only [decode0, h, if_false]

theorem decodeE_of_not_mem (h : kk ∉ [0x9E, 0xA1]) : decodeE x kk = .unimplE x kk := by
  simp only [List.mem_cons, List.not_mem_nil, or_false, not_or] at h
  simp only [decodeE, h, if_false]

theorem decodeF_of_not_mem (h : kk ∉ [0x07, 0x15, 0x18, 0x1E, 0x29, 0x33, 0x55, 0x65]) :
    decodeF x kk = .unimplF x kk := by
  simp only [List.mem_cons, List.not_mem_nil, or_false, not_or] at h
  simp only [decodeF, h, if_false]

theorem decode0_unimplemented_iff :
    (decode0 nnn).unimplemented = true ↔ nnn ∉ [0x0E0, 0x0EE] := by
  refine ⟨fun h hmem => ?_, fun h => by rw [decode0_of_not_mem h]; rfl⟩
  fin_cases hmem <;> cases h

theorem decodeE_unimplemented_iff :
    (decodeE x kk).unimplemented = true ↔ kk ∉ [0x9E, 0xA1] := by
  refine ⟨fun h hmem => ?_, fun h => by rw [decodeE_of_not_mem x h]; rfl⟩
  fin_cases hmem <;> cases h

theorem decodeF_unimplemented_iff : (decodeF x kk).unimplemented = true ↔
    kk ∉ [0x07, 0x15, 0x18, 0x1E, 0x29, 0x33, 0x55, 0x65] := by
  refine ⟨fun h hmem => ?_, fun h => by rw [decodeF_of_not_mem x h]; rfl⟩
  fin_cases hmem <;> cases h

/-- In family 8 the key alone decides; the registers do not matter. -/
theorem decode8_unimplemented_registers :
    (decode8 x y n).unimplemented = (decode8 0 0 n).unimplemented := by
  unfold decode8
  split <;> rfl

theorem decode8_unimplemented_iff : (decode8 x y n).unimplemented = true ↔
    n ∈ [0x8, 0x9, 0xA, 0xB, 0xC, 0xD, 0xF] := by
  rw [decode8_unimplemented_registers]
  revert n
  decide

end

/-! ### The first level: the families that have a second one, and those that have none -/

section
variable {op : Word}

theorem decode_of_family_0 (h : fieldFamily op = 0x0) : decode op = decode0 (fieldNNN op) := by
  simp [decode, h]

theorem decode_of_family_8 (h : fieldFamily op = 0x8) :
    decode op = decode8 (fieldX op) (fieldY op) (fieldN op) := by
  simp [decode, h]

theorem decode_of_family_E (h : fieldFamily op = 0xE) :
    decode op = decodeE (fieldX op) (fieldKK op) := by
  simp [decode, h]

theorem decode_of_family_F (h : fieldFamily op = 0xF) :
    decode op = decodeF (fieldX op) (fieldKK op) := by
  simp [decode, h]

/-- Every word of the other twelve families is an instruction (R66). -/
theorem decode_implemented_of_family (h0 : fieldFamily op ≠ 0x0) (h8 : fieldFamily op ≠ 0x8)
    (hE : fieldFamily op ≠ 0xE) (hF : fieldFamily op ≠ 0xF) : (decode op).unimplemented = false := by
  unfold decode
  split
  case h_1 h => exact absurd (BitVec.eq_of_toNat_eq h) h0
  case h_9 h => exact absurd (BitVec.eq_of_toNat_eq h) h8
  case h_15 h => exact absurd (BitVec.eq_of_toNat_eq h) hE
  case h_16 =>
    have hF' : (fieldFamily op).toNat ≠ 15 := fun h => hF (BitVec.eq_of_toNat_eq h)
    simp only [imp_false] at *
    omega
  all_goals rfl

end

/-! ### The round trip -/

section
variable (x y n : Nibble) (kk : Byte) (nnn : Addr12)

theorem decode_wordA_0 : decode (wordA 0x0 nnn) = decode0 nnn := by
  rw [decode_of_family_0 (fieldFamily_wordA ..), fieldNNN_wordA]

theorem decode_wordXYN_8 : decode (wordXYN 0x8 x y n) = decode8 x y n := by
  rw [decode_of_family_8 (fieldFamily_wordXYN ..), fieldX_wordXYN, fieldY_wordXYN, fieldN_wordXYN]

theorem decode_wordXK_E : decode (wordXK 0xE x kk) = decodeE x kk := by
  rw [decode_of_family_E (fieldFamily_wordXK ..), fieldX_wordXK, fieldKK_wordXK]

theorem decode_wordXK_F : decode (wordXK 0xF x kk) = decodeF x kk := by
  rw [decode_of_family_F (fieldFamily_wordXK ..), fieldX_wordXK, fieldKK_wordXK]

end

/-- R62: the decoder reads a well-formed instruction back from its word. The families with a second level go
through its key; for the others the simp lemmas on the fields of a built word give the operands. -/
theorem decode_encode {i : Instr} (h : i.wellFormed = true) : decode (encode i) = i := by
  cases i with
  | cls | ret => rfl
  | jp | call | ldI | jpV0 | seImm | sneImm | ldImm | addImm | rnd | seReg | sneReg | drw =>
    simp [encode, decode]
  | ldReg | orReg | andReg | xorReg | addReg | sub | shr | subn | shl | unimpl88 | unimpl89 | unimpl8A
  | unimpl8B | unimpl8C | unimpl8D | unimpl8F => exact decode_wordXYN_8 ..
  | skp | sknp => exact decode_wordXK_E ..
  | ldVxDt | ldDtVx | ldStVx | addI | ldF | ldB | ldMemVx | ldVxMem => exact decode_wordXK_F ..
  | unimpl0 nnn =>
    exact (decode_wordA_0 nnn).trans (decode0_of_not_mem ((wellFormed_unimpl0_iff nnn).1 h))
  | unimplE x kk =>
    exact (decode_wordXK_E x kk).trans (decodeE_of_not_mem x ((wellFormed_unimplE_iff x kk).1 h))
  | unimplF x kk =>
    exact (decode_wordXK_F x kk).trans (decodeF_of_not_mem x ((wellFormed_unimplF_iff x kk).1 h))

/-- The bytes of a word, with any bytes after them, decode to the word's instruction and leave the rest
over (R45, R60). -/
theorem decodeBytes_bytesOfWord (op : Word) (rest : List Byte) :
    decodeBytes (bytesOfWord op ++ rest) = .ok (decode op, rest) := by
  rw [bytesOfWord, List.cons_append, List.cons_append, List.nil_append, decodeBytes,
    wordOfBytes_bytes]

/-- Settles O1: each constructor's word is built from its fields, and the fields select the constructor; the
bytes compose to the word. -/
theorem decodeOfEncode : Obligations.DecodeOfEncode := by
  intro i rest h
  refine ⟨decode_encode h, ?_⟩
  rw [encodeBytes, decodeBytes_bytesOfWord, decode_encode h]

/-- Settles O4, by the family: four have a second level, and the others hold instructions only. -/
theorem unimplementedWords : Obligations.UnimplementedWords := by
  intro op
  by_cases h0 : fieldFamily op = 0x0
  · rw [decode_of_family_0 h0, decode0_unimplemented_iff]
    simp [h0]
  by_cases h8 : fieldFamily op = 0x8
  · rw [decode_of_family_8 h8, decode8_unimplemented_iff]
    simp [h8]
  by_cases hE : fieldFamily op = 0xE
  · rw [decode_of_family_E hE, decodeE_unimplemented_iff]
    simp [hE]
  by_cases hF : fieldFamily op = 0xF
  · rw [decode_of_family_F hF, decodeF_unimplemented_iff]
    simp [hF]
  · simp only [decode_implemented_of_family h0 h8 hE hF, h0, h8, hE, hF, Bool.false_eq_true,
      false_and, or_false]

end Sys2Proof
end

section
/-!
PROOF. The instruction cycle (spec/40_cycle_and_events.md R83, R84, R85): halted, fetch out of range, fetch and
execute; and the step that takes a `CpuTick`.
-/

namespace Sys2Proof.Machine

open Sys2Proof

section
variable {s : State}

/-! ### The halted machine -/

theorem cpuTick_of_halted (h : s.halt ≠ .none) : cpuTick s = .next s := by
  rcases cpuTick_cases s with ⟨_, e⟩ | ⟨hrun, _⟩ | ⟨hrun, _⟩
  · exact e
  · exact absurd hrun h
  · exact absurd hrun h

theorem unimplReport_of_halted (h : s.halt ≠ .none) : unimplReport s = none := by
  unfold unimplReport
  split
  · next hrun _ => exact absurd hrun h
  · rfl

/-! ### The fetch that leaves memory -/

theorem State.fetchFaultAddr_toNat (s : State) : s.fetchFaultAddr.toNat = max s.pc.toNat 4096 := by
  have := s.pc.isLt
  rw [State.fetchFaultAddr, BitVec.toNat_ofNat]
  omega

theorem cpuTick_of_fetch_out_of_range (hrun : s.halt = .none) (hpc : s.pc.toNat + 1 > 4095) :
    cpuTick s = .next (s.fatal .fetchOutOfRange s.fetchFaultAddr) := by
  rcases cpuTick_cases s with ⟨hhalt, _⟩ | ⟨_, _, e⟩ | ⟨_, op, hop, _⟩
  · exact absurd hrun hhalt
  · exact e
  · rcases s.fetch_cases with ⟨hle, _⟩ | ⟨_, hnone⟩
    · omega
    · cases hnone.symm.trans hop

/-! ### The fetch inside memory -/

/-- The word at PC, high byte first (R44, R45). -/
def State.wordAtPc (s : State) : Word :=
  wordOfBytes (s.readByte s.pc.toNat) (s.readByte (s.pc.toNat + 1))

theorem State.fetch_of_in_range (hpc : s.pc.toNat + 1 ≤ 4095) : s.fetch = some s.wordAtPc :=
  if_pos hpc

theorem State.wordAtPc_toNat (s : State) : s.wordAtPc.toNat =
    (s.readByte s.pc.toNat).toNat * 256 + (s.readByte (s.pc.toNat + 1)).toNat :=
  wordOfBytes_toNat _ _

theorem cpuTick_of_fetch_in_range (hrun : s.halt = .none) (hpc : s.pc.toNat + 1 ≤ 4095) :
    cpuTick s = exec (decode s.wordAtPc) (s.fetched s.wordAtPc) := by
  have hfetch := State.fetch_of_in_range hpc
  rcases cpuTick_cases s with ⟨hhalt, _⟩ | ⟨_, hnone, _⟩ | ⟨_, op, hop, e⟩
  · exact absurd hrun hhalt
  · cases hfetch.symm.trans hnone
  · cases hfetch.symm.trans hop
    exact e

/-- The two bytes at PC decode as the word at PC, and nothing is left over. -/
theorem State.decodeBytes_at_pc (s : State) :
    decodeBytes (s.readBytes s.pc.toNat 2) = .ok (decode s.wordAtPc, []) := rfl

/-! ### The step -/

/-- A step that takes a `CpuTick` where there is a machine is one instruction cycle. -/
theorem step_of_takeEvent_cpuTick {s0 : State} (htake : s.takeEvent = (.cpuTick, s0))
    (hcreated : s0.created = true) : step s = cpuTick s0 := by
  rw [step, nextEvent, htake]
  exact if_pos hcreated

end

/-- Settles O9: a machine is halted, or PC is too high for a fetch, or the word at PC executes; PC is then
too low to wrap. -/
theorem instructionCycle : Obligations.InstructionCycle := fun s =>
  ⟨fun hhalt => ⟨cpuTick_of_halted hhalt, unimplReport_of_halted hhalt⟩,
    fun hrun hpc =>
      ⟨s.fetchFaultAddr, s.fetchFaultAddr_toNat, cpuTick_of_fetch_out_of_range hrun hpc⟩,
    fun hrun hpc =>
      ⟨s.wordAtPc, s.wordAtPc_toNat, pc_add_two_toNat (by omega),
        cpuTick_of_fetch_in_range hrun hpc⟩⟩

/-- Settles O8: the step is an instruction cycle on `s0`, and what the two bytes at PC decode to is what
that cycle executes. -/
theorem stepRunsDecodedInstruction : Obligations.StepRunsDecodedInstruction := by
  intro s s0 i rest htake hcreated hrun hpc hdecode
  cases s0.decodeBytes_at_pc.symm.trans hdecode
  exact (step_of_takeEvent_cpuTick htake hcreated).trans (cpuTick_of_fetch_in_range hrun hpc)

end Sys2Proof.Machine
end

section
/-!
PROOF. Every instruction answers a next state where SP is at most 16 (spec/30_encoding.md R69,
spec/40_cycle_and_events.md R85): a fatal condition is a next state too, and only the two stack instructions
have another answer, for SP above 16.
-/

namespace Sys2Proof.Machine

open Sys2Proof

/-- A range check raises or goes on, and either way there is a next state (R48). -/
theorem withRange_answers (a len : Nat) (s t : State) : ∃ u : State, withRange a len s t = .next u := by
  rcases withRange_cases a len s t with ⟨_, _, e⟩ | ⟨_, e⟩
  · exact ⟨_, e⟩
  · exact ⟨_, e⟩

theorem execRet_answers {s : State} (h : s.sp.toNat ≤ 16) : ∃ t : State, execRet s = .next t := by
  rcases execRet_cases s with ⟨_, e⟩ | ⟨_, _, e⟩ | ⟨hgt, _⟩
  · exact ⟨_, e⟩
  · exact ⟨_, e⟩
  · omega

theorem execCall_answers (nnn : Addr12) {s : State} (h : s.sp.toNat ≤ 16) :
    ∃ t : State, execCall nnn s = .next t := by
  rcases execCall_cases nnn s with ⟨_, e⟩ | ⟨_, _, e⟩ | ⟨hgt, _⟩
  · exact ⟨_, e⟩
  · exact ⟨_, e⟩
  · omega

theorem exec_answers (i : Instr) {s : State} (h : s.sp.toNat ≤ 16) :
    ∃ t : State, exec i s = .next t := by
  cases i with
  | ret => exact execRet_answers h
  | call nnn => exact execCall_answers nnn h
  | drw | ldB | ldMemVx | ldVxMem => exact withRange_answers _ _ _ _
  | cls | jp | jpV0 | seImm | sneImm | seReg | sneReg | skp | sknp | ldImm | addImm | ldReg | orReg | andReg
  | xorReg | addReg | sub | shr | subn | shl | rnd | ldI | addI | ldF | ldVxDt | ldDtVx | ldStVx | unimpl88
  | unimpl89 | unimpl8A | unimpl8B | unimpl8C | unimpl8D | unimpl8F | unimpl0 | unimplE | unimplF =>
    exact ⟨_, rfl⟩

/-- Settles O21, by what each instruction can answer. -/
theorem everyInstructionAnswersANextState : Obligations.EveryInstructionAnswersANextState :=
  fun i _ h => exec_answers i h

end Sys2Proof.Machine
end

section
/-!
PROOF. Where `1NNN`, `2NNN` and `00EE` lead (spec/41_flow.md R100 to R102): the fatal condition at each end of
the stack, the push and the pop between them, and that a return undoes a call (spec/95_test_vectors.md S5).
-/

namespace Sys2Proof.Machine

open Sys2Proof

section
variable {s : State}

theorem exec_jp (nnn : Addr12) : exec (.jp nnn) s = .next { s with pc := addrWord nnn } := rfl

theorem exec_ret_underflow (h : s.sp = 0) : exec .ret s = .next (s.fatal .stackUnderflow 0) := if_pos h

theorem exec_call_overflow (nnn : Addr12) (h : s.sp = 16) :
    exec (.call nnn) s = .next (s.fatal .stackOverflow 0) := if_pos h

theorem sp_sub_one_toNat_of_succ {sp : Byte} {k : Nat} (h : sp.toNat = k + 1) : (sp - 1).toNat = k := by
  bv_omega

theorem sp_add_one_toNat {sp : Byte} (h : sp.toNat < 16) : (sp + 1).toNat = sp.toNat + 1 := by
  bv_omega

end

/-- The frame of `00EE` and `2NNN`: PC and the stack with SP, and nothing else. -/
theorem keeps_stack_pc (s : State) (sp : Byte) (stack : Vector Word 16) (pc : Word) :
    Keeps { pc := true, stack := true } s { s with sp := sp, stack := stack, pc := pc } :=
  { keeps_refl _ s with pc := nofun, stack := nofun }

/-- Settles O31. -/
theorem jumpSetsPc : Obligations.JumpSetsPc := fun s nnn =>
  ⟨_, exec_jp nnn, addrWord_toNat nnn, { keeps_refl _ s with pc := nofun }⟩

/-- Settles O30: SP = 0 raises, and the pop reads the entry below SP and writes none. -/
theorem returnPopsTheStack : Obligations.ReturnPopsTheStack := fun s =>
  ⟨fun h0 => ⟨0, exec_ret_underflow h0⟩,
    fun _ hk => ⟨_, exec_ret_pop hk, sp_sub_one_toNat_of_succ hk, rfl, rfl,
      keeps_stack_pc s _ _ _⟩⟩

/-- Settles O32: SP = 16 raises, and the push writes the entry at SP and no other. -/
theorem callPushesTheStack : Obligations.CallPushesTheStack := by
  intro s nnn
  refine ⟨fun h16 => ⟨0, exec_call_overflow nnn h16⟩, fun k hk => ?_⟩
  refine ⟨_, exec_call_push nnn hk, Vector.getElem_set_self k.isLt, fun j hj => ?_, ?_,
    addrWord_toNat nnn, keeps_stack_pc s _ _ _⟩
  · exact Vector.getElem_set_ne k.isLt j.isLt fun e => hj (Fin.ext e.symm)
  · rw [sp_add_one_toNat (by omega), hk]

/-- Settles O35: the call leaves PC in the entry below its SP, which is the entry the return reads. -/
theorem returnUndoesCall : Obligations.ReturnUndoesCall := by
  intro s t u nnn hsp hcall husp hustack
  have hpush := exec_call_push (k := ⟨s.sp.toNat, hsp⟩) nnn rfl
  cases hpush.symm.trans hcall
  have hpop : u.sp.toNat = s.sp.toNat + 1 := by rw [husp, sp_add_one_toNat hsp]
  refine ⟨_, exec_ret_pop (k := ⟨s.sp.toNat, hsp⟩) hpop, ?_, ?_⟩
  · simp only [hustack]
    exact Vector.getElem_set_self hsp
  · exact BitVec.eq_of_toNat_eq (sp_sub_one_toNat_of_succ hpop)

end Sys2Proof.Machine
end

section
/-!
PROOF. The conditional skips (spec/42_skip.md): what an instruction that answers R110's skip does to PC and
keeps, and the two that compare a register with a byte (R111, R112).
-/

namespace Sys2Proof.Machine

open Sys2Proof

section
variable {i : Instr} {s : State}

theorem State.skipIf_decide_pc (c : Prop) [Decidable c] :
    (s.skipIf (decide c)).pc = if c then s.pc + 2 else s.pc := by
  simp only [State.skipIf_pc, decide_eq_true_eq]

/-- R110: an instruction that answers the skip under `c` advances PC where `c` holds and does nothing else. -/
theorem exec_skips {c : Prop} [Decidable c] (h : exec i s = .next (s.skipIf (decide c))) :
    ∃ t : State, exec i s = .next t ∧ t.pc = (if c then s.pc + 2 else s.pc) ∧ Keeps { pc := true } s t :=
  ⟨_, h, State.skipIf_decide_pc c, keeps_skipIf s _⟩

theorem exec_seImm (x : Nibble) (kk : Byte) :
    exec (.seImm x kk) s = .next (s.skipIf (decide (s.readV x = kk))) := rfl

theorem exec_sneImm (x : Nibble) (kk : Byte) :
    exec (.sneImm x kk) s = .next (s.skipIf (decide (s.readV x ≠ kk))) := rfl

end

/-- Settles O36: each of the two answers the skip under its own comparison. -/
theorem skipOnByte : Obligations.SkipOnByte := fun _ x kk =>
  ⟨exec_skips (exec_seImm x kk), exec_skips (exec_sneImm x kk)⟩

end Sys2Proof.Machine
end

section
/-!
PROOF. The ALU instructions that write one register and no flag (spec/43_alu.md R121 to R126): the one write
each of them answers, and what that write leaves in the register and keeps.
-/

namespace Sys2Proof.Machine

open Sys2Proof

section
variable {s : State}

theorem State.readV_writeV_same (x : Nibble) (b : Byte) : (s.writeV x b).readV x = b := by
  rw [State.readV_writeV, if_pos rfl]

/-- An instruction that answers the write of `b` to `V[x]` leaves `b` there and changes nothing else: no flag
is written. -/
theorem exec_writes {i : Instr} {x : Nibble} {b : Byte} (h : exec i s = .next (s.writeV x b)) :
    ∃ t : State, exec i s = .next t ∧ t.readV x = b ∧ Keeps { v := [x] } s t :=
  ⟨_, h, State.readV_writeV_same x b, keeps_writeV s x b⟩

theorem exec_ldImm (x : Nibble) (kk : Byte) : exec (.ldImm x kk) s = .next (s.writeV x kk) := rfl

theorem exec_addImm (x : Nibble) (kk : Byte) :
    exec (.addImm x kk) s = .next (s.writeV x (s.readV x + kk)) := rfl

theorem exec_ldReg (x y : Nibble) : exec (.ldReg x y) s = .next (s.writeV x (s.readV y)) := rfl

theorem exec_orReg (x y : Nibble) :
    exec (.orReg x y) s = .next (s.writeV x (s.readV x ||| s.readV y)) := rfl

theorem exec_andReg (x y : Nibble) :
    exec (.andReg x y) s = .next (s.writeV x (s.readV x &&& s.readV y)) := rfl

theorem exec_xorReg (x y : Nibble) :
    exec (.xorReg x y) s = .next (s.writeV x (s.readV x ^^^ s.readV y)) := rfl

end

/-- Settles O39: each answers one write, and the sum of two bytes wraps modulo 256. -/
theorem loadAddAndMove : Obligations.LoadAddAndMove := by
  intro s x y kk
  refine ⟨exec_writes (exec_ldImm x kk), ?_, exec_writes (exec_ldReg x y)⟩
  obtain ⟨t, hexec, hsum, hkeeps⟩ := exec_writes (exec_addImm (s := s) x kk)
  exact ⟨t, hexec, by rw [hsum, BitVec.toNat_add], hkeeps⟩

/-- Settles O40: each answers the write of its bitwise operation. -/
theorem bitwiseLogic : Obligations.BitwiseLogic := fun _ x y =>
  ⟨exec_writes (exec_orReg x y), exec_writes (exec_andReg x y), exec_writes (exec_xorReg x y)⟩

end Sys2Proof.Machine
end

section
/-!
PROOF. The load of the index register (spec/44_index_memory.md R140): it writes the zero-extended immediate to
I, and nothing else.
-/

namespace Sys2Proof.Machine

open Sys2Proof

theorem exec_ldI (s : State) (nnn : Addr12) :
    exec (.ldI nnn) s = .next { s with i := addrWord nnn } := rfl

/-- Settles O46: the zero extension keeps the immediate's value, and I is the one field written. -/
theorem loadIndex : Obligations.LoadIndex := fun s nnn =>
  ⟨_, exec_ldI s nnn, addrWord_toNat nnn, { keeps_refl _ s with i := nofun }⟩

end Sys2Proof.Machine
end

section
/-!
PROOF. The load of the sound timer (spec/46_timers.md R162): it copies `V[X]` to ST, and nothing else.
-/

namespace Sys2Proof.Machine

open Sys2Proof

theorem exec_ldStVx (s : State) (x : Nibble) :
    exec (.ldStVx x) s = .next { s with st := s.readV x } := rfl

/-- Settles O56: ST is the one field written, and it receives `V[X]`. -/
theorem setSoundTimer : Obligations.SetSoundTimer := fun s x =>
  ⟨_, exec_ldStVx s x, rfl, { keeps_refl _ s with st := nofun }⟩

end Sys2Proof.Machine
end

section
/-!
PROOF. A `Reset` by the length of its ROM (spec/60_exceptions.md R185): the machine it makes, the construction
that fails, and what is accepted after one.
-/

namespace Sys2Proof.Machine

open Sys2Proof

section
variable {rom : List Byte} {s : State}

/-! ### The two answers of `Reset` -/

/-- The machine a ROM that fits makes (R210). -/
def State.built (s : State) (rom : List Byte) : State := s.cleared.storeBytes 0x200 rom

/-- What a failed construction leaves: no machine (R185). -/
def State.unbuilt (s : State) : State := { s.cleared with created := false }

theorem runEvent_reset_of_fits (h : rom.length ≤ 3584) :
    runEvent (.reset rom) s = .next (s.built rom) := if_pos h

theorem runEvent_reset_of_too_large (h : rom.length > 3584) :
    runEvent (.reset rom) s = .next s.unbuilt := if_neg (Nat.not_le_of_gt h)

theorem runEvent_reset_answers (rom : List Byte) (s : State) :
    ∃ t : State, runEvent (.reset rom) s = .next t := by
  rcases construct_cases rom s with ⟨_, e⟩ | ⟨_, e⟩
  · exact ⟨_, e⟩
  · exact ⟨_, e⟩

@[simp] theorem State.built_created : (s.built rom).created = true := s.cleared.storeBytes_created ..

@[simp] theorem State.built_pc : (s.built rom).pc = 0x200 := s.cleared.storeBytes_pc ..

@[simp] theorem State.built_halt : (s.built rom).halt = .none := s.cleared.storeBytes_halt ..

@[simp] theorem State.built_events : (s.built rom).events = s.events := s.cleared.storeBytes_events ..

/-- A ROM byte stands where R210 loads it. -/
theorem State.built_readByte (hrom : rom.length ≤ 3584) {k : Nat} (hk : k < rom.length) :
    (s.built rom).readByte (0x200 + k) = rom.getD k 0 := by
  have hwf : Memory.wf s.cleared.params s.cleared.mem := Memory.wf_nil _
  rw [State.built, State.readByte_storeBytes hwf 0x200 _ rom (by omega), dif_pos ⟨by omega, by omega⟩]
  simp [hk]

/-- A failed construction leaves nothing behind that a later `Reset` could use. -/
theorem State.unbuilt_built : s.unbuilt.built rom = s.built rom := rfl

theorem onMachine_of_created (hs : s.created = true) (r : Result) : onMachine s r = r := if_pos hs

theorem onMachine_of_not_created (hs : s.created = false) (r : Result) :
    onMachine s r = .refused .noMachine := if_neg (by simp [hs])

/-- Where there is no machine only `Reset` is accepted (R185). -/
theorem runEvent_of_no_machine {e : Event} (hs : s.created = false) (he : ∀ rom, e ≠ .reset rom) :
    runEvent e s = .refused .noMachine := by
  cases e with
  | reset rom => exact absurd rfl (he rom)
  | cpuTick | timerTick | keySet | keyClear | frameAck => exact onMachine_of_not_created hs _

/-- Where an event waits, the step is that event (R90). -/
theorem step_of_events_cons {e : Event} {rest : List Event} (h : s.events = e :: rest) :
    step s = runEvent e { s with events := rest } := by
  rw [step, nextEvent, State.takeEvent_cons h]

end

/-! ### The obligations -/

/-- Settles O15, by the two answers of `Reset`. -/
theorem romLengthLimit : Obligations.RomLengthLimit := fun _ _ =>
  ⟨fun hbig => ⟨if_neg (Nat.not_le_of_gt hbig), _, runEvent_reset_of_too_large hbig, rfl, rfl⟩,
    fun hfits => ⟨if_pos hfits, _, runEvent_reset_of_fits hfits, State.built_created⟩⟩

/-- Settles O59: the failed `Reset` leaves no machine, and a `Reset` keeps only fields that it left. -/
theorem failedConstruction : Obligations.FailedConstruction := by
  intro big ok s t hbig h
  cases (runEvent_reset_of_too_large hbig).symm.trans h
  refine ⟨fun e he => runEvent_of_no_machine rfl he, fun hok => ?_⟩
  refine ⟨s.built ok, ?_, State.built_created, runEvent_reset_of_fits hok⟩
  rw [runEvent_reset_of_fits hok, State.unbuilt_built]

/-- Settles O60: the first step leaves no machine and the second `Reset` waiting, which is accepted. -/
theorem resetFollowsAFailedConstruction : Obligations.ResetFollowsAFailedConstruction := by
  intro big ok rest s hevents hbig hok
  have hfirst := (step_of_events_cons hevents).trans (runEvent_reset_of_too_large hbig)
  have hsecond {t : State} (ht : t.events = .reset ok :: rest) :=
    (step_of_events_cons ht).trans (runEvent_reset_of_fits hok)
  exact ⟨_, _, hfirst, rfl, hsecond rfl, State.built_created, State.built_events, State.built_pc,
    fun _ hk => State.built_readByte hok hk⟩

end Sys2Proof.Machine
end

section
/-!
PROOF. Which steps stop, and what a halted machine does (spec/40_cycle_and_events.md R83, R89;
spec/60_exceptions.md R185, R188).
-/

namespace Sys2Proof.Machine

open Sys2Proof

/-! ### What the events answer -/

/-- All that `FrameAck` answers on a machine (R89). -/
theorem frameAck_cases (s : State) :
    (s.drawFlag = true ∧ frameAck s = .next { s with drawFlag := false }) ∨
      (s.drawFlag = false ∧ frameAck s = .refused .frameAckNotEnabled) := by
  unfold frameAck
  cases s.drawFlag
  · exact .inr ⟨rfl, rfl⟩
  · exact .inl ⟨rfl, rfl⟩

theorem cpuTick_answers {s : State} (hsp : s.sp.toNat ≤ 16) : ∃ t : State, cpuTick s = .next t := by
  rcases cpuTick_cases s with ⟨_, e⟩ | ⟨_, _, e⟩ | ⟨_, op, _, e⟩
  · exact ⟨_, e⟩
  · exact ⟨_, e⟩
  · rw [e]
    exact exec_answers (decode op) hsp

/-- On a machine whose SP is at most 16 only `FrameAck` can have no next state. -/
theorem runEvent_answers_of_machine {e : Event} {s : State} (hs : s.created = true)
    (hsp : s.sp.toNat ≤ 16) :
    (∃ t : State, runEvent e s = .next t) ∨
      (s.drawFlag = false ∧ e = .frameAck ∧ runEvent e s = .refused .frameAckNotEnabled) := by
  have acts := onMachine_of_created hs
  cases e with
  | reset rom => exact .inl (runEvent_reset_answers rom s)
  | cpuTick =>
    obtain ⟨t, ht⟩ := cpuTick_answers hsp
    exact .inl ⟨t, (acts _).trans ht⟩
  | timerTick | keySet | keyClear => exact .inl ⟨_, acts _⟩
  | frameAck =>
    rcases frameAck_cases s with ⟨_, e⟩ | ⟨hflag, e⟩
    · exact .inl ⟨_, (acts _).trans e⟩
    · exact .inr ⟨hflag, rfl, (acts _).trans e⟩

/-- Settles O22: the event is a `Reset`, or it has no machine to act on, or it acts on one. -/
theorem stepStopsOnlyWhereTheSpecSays : Obligations.StepStopsOnlyWhereTheSpecSays := by
  intro s hsp
  have hsp' : s.takeEvent.2.sp.toNat ≤ 16 := by rwa [s.takeEvent_sp]
  rw [step, nextEvent, ← s.takeEvent_drawFlag, ← s.takeEvent_created]
  by_cases hreset : ∃ rom, s.takeEvent.1 = .reset rom
  · obtain ⟨rom, hrom⟩ := hreset
    rw [hrom]
    exact .inl (runEvent_reset_answers rom _)
  · have hne : ∀ rom, s.takeEvent.1 ≠ .reset rom := not_exists.1 hreset
    cases hc : s.takeEvent.2.created with
    | false => exact .inr (.inr ⟨rfl, hne, runEvent_of_no_machine hc hne⟩)
    | true =>
      rcases runEvent_answers_of_machine hc hsp' with hnext | hack
      · exact .inl hnext
      · exact .inr (.inl ⟨rfl, hack⟩)

/-! ### The halted machine -/

theorem eq_of_runEvent_cpuTick_of_halted {s t : State} (hhalt : s.halt ≠ .none)
    (h : runEvent .cpuTick s = .next t) : t = s := by
  cases (cpuTick_of_halted hhalt).symm.trans (of_onMachine_next h)
  rfl

/-- From a halt no event but `Reset` writes `halt` or `fault_addr` (R188). -/
theorem runEvent_keeps_record_of_halted {e : Event} {s t : State} (hhalt : s.halt ≠ .none)
    (he : ∀ rom, e ≠ .reset rom) (h : runEvent e s = .next t) :
    t.halt = s.halt ∧ t.faultAddr = s.faultAddr := by
  cases e with
  | reset rom => exact absurd rfl (he rom)
  | cpuTick =>
    cases eq_of_runEvent_cpuTick_of_halted hhalt h
    exact ⟨rfl, rfl⟩
  | timerTick | keySet | keyClear =>
    cases of_onMachine_next h
    exact ⟨rfl, rfl⟩
  | frameAck =>
    rcases frameAck_cases s with ⟨_, e⟩ | ⟨_, e⟩ <;> cases e.symm.trans (of_onMachine_next h)
    exact ⟨rfl, rfl⟩

/-- A `Reset` leaves no halt, with a machine or without (R188, R185). -/
theorem runEvent_reset_halt {rom : List Byte} {s t : State}
    (h : runEvent (.reset rom) s = .next t) : t.halt = .none := by
  rcases construct_cases rom s with ⟨_, e⟩ | ⟨_, e⟩ <;> cases e.symm.trans h
  · exact State.built_halt
  · rfl

/-- Settles O23: a `CpuTick`, any event but `Reset`, and `Reset`, each by what it does from a halt. -/
theorem haltedUntilReset : Obligations.HaltedUntilReset := by
  intro s t e hhalt h
  refine ⟨?_, fun he => runEvent_keeps_record_of_halted hhalt he h, ?_⟩
  · rintro rfl
    exact eq_of_runEvent_cpuTick_of_halted hhalt h
  · rintro rom rfl
    exact runEvent_reset_halt h

end Sys2Proof.Machine
end

section
/-!
PROOF. Which instructions raise a fatal condition, and when (spec/60_exceptions.md R180, R182 to R184, R189).
-/

namespace Sys2Proof.Machine

open Sys2Proof

/-- The instructions that check a range at I, with the length they check (R48). -/
def ChecksRange (i : Instr) (len : Nat) : Prop :=
  (∃ x, i = .ldB x ∧ len = 3) ∨ (∃ x, i = .ldMemVx x ∧ len = x.toNat + 1) ∨
    (∃ x, i = .ldVxMem x ∧ len = x.toNat + 1) ∨ ∃ x y n, i = .drw x y n ∧ len = n.toNat

/-- The three ways into the fatal entry at execute time, each with its record (R182 to R184). -/
def RaisedBy (i : Instr) (s t : State) : Prop :=
  (∃ nnn, i = .call nnn ∧ s.sp = 16 ∧ t = s.fatal .stackOverflow 0) ∨
    (i = .ret ∧ s.sp = 0 ∧ t = s.fatal .stackUnderflow 0) ∨
    ∃ (addr : BitVec 17) (len : Nat), t = s.fatal .dataOutOfRange addr ∧
      addr.toNat = max s.i.toNat 4096 ∧ 1 ≤ len ∧ s.i.toNat + len - 1 > 4095 ∧ ChecksRange i len

section
variable {i : Instr} {s t : State}

/-- A range check that ends in a halt has raised: the state it would have gone to is not halted. -/
theorem raisedBy_of_range {u : State} {len : Nat} (hi : ChecksRange i len)
    (he : exec i s = withRange s.i.toNat len s u) (hu : u.halt = .none)
    (h : exec i s = .next t) (ht : t.halt ≠ .none) : RaisedBy i s t := by
  rcases withRange_cases s.i.toNat len s u with ⟨hlen, hrange, _⟩ | ⟨_, e⟩
  · obtain ⟨addr, haddr, hraise⟩ := raises_of_range he hlen hrange
    cases hraise.symm.trans h
    exact .inr (.inr ⟨addr, len, rfl, haddr, by omega, by omega, hi⟩)
  · cases (he.trans e).symm.trans h
    exact absurd hu ht

/-- An instruction that ends in a halt has raised a fatal condition of its own. -/
theorem exec_raisedBy (hrun : s.halt = .none) (h : exec i s = .next t) (ht : t.halt ≠ .none) :
    RaisedBy i s t := by
  cases i with
  | ret =>
    rcases execRet_cases s with ⟨h0, e⟩ | ⟨_, _, e⟩ | ⟨_, e⟩ <;> cases e.symm.trans h
    · exact .inr (.inl ⟨rfl, h0, rfl⟩)
    · exact absurd hrun ht
  | call nnn =>
    rcases execCall_cases nnn s with ⟨h16, e⟩ | ⟨_, _, e⟩ | ⟨_, e⟩ <;> cases e.symm.trans h
    · exact .inl ⟨nnn, rfl, h16, rfl⟩
    · exact absurd hrun ht
  | ldB x =>
    exact raisedBy_of_range (.inl ⟨x, rfl, rfl⟩) rfl ((s.storeBytes_halt ..).trans hrun) h ht
  | ldMemVx x =>
    exact raisedBy_of_range (.inr (.inl ⟨x, rfl, rfl⟩)) rfl ((s.storeBytes_halt ..).trans hrun) h ht
  | ldVxMem x =>
    exact raisedBy_of_range (.inr (.inr (.inl ⟨x, rfl, rfl⟩))) rfl ((s.loadV_halt ..).trans hrun) h ht
  | drw x y n =>
    exact raisedBy_of_range (.inr (.inr (.inr ⟨x, y, n, rfl, rfl⟩))) rfl hrun h ht
  | addReg | sub | shr | subn | shl =>
    cases h
    exact absurd ((s.commit2_halt ..).trans hrun) ht
  | cls | jp | jpV0 | seImm | sneImm | seReg | sneReg | skp | sknp | ldImm | addImm | ldReg | orReg | andReg
  | xorReg | rnd | ldI | addI | ldF | ldVxDt | ldDtVx | ldStVx | unimpl88 | unimpl89 | unimpl8A | unimpl8B
  | unimpl8C | unimpl8D | unimpl8F | unimpl0 | unimplE | unimplF =>
    cases h
    exact absurd hrun ht

end

/-- Settles O24: each of the three ways in writes its own record over the state and nothing else. -/
theorem fatalEntryIsPrecise : Obligations.FatalEntryIsPrecise := by
  intro i s t hrun h ht
  rcases exec_raisedBy hrun h ht with
    ⟨nnn, hi, h16, rfl⟩ | ⟨hi, h0, rfl⟩ | ⟨addr, len, rfl, haddr, hlen, hrange, hi⟩
  · exact ⟨rfl, .inl ⟨nnn, hi, h16, rfl, rfl⟩⟩
  · exact ⟨rfl, .inr (.inl ⟨hi, h0, rfl, rfl⟩)⟩
  · exact ⟨rfl, .inr (.inr ⟨rfl, haddr, len, hlen, hrange, hi⟩)⟩

end Sys2Proof.Machine
end

section
/-!
PROOF. Memory stays in its canonical form (spec/20_memory.md R40, R43): only the stores of `FX33` and `FX55` and
the loading of a ROM write it.
-/

namespace Sys2Proof.Machine

open Sys2Proof

/-- A range check goes on to the state the instruction makes, or raises without touching memory (R48). -/
theorem withRange_memOk {a len : Nat} {s t u : State} (hs : s.MemOk) (hu : u.MemOk)
    (h : withRange a len s u = .next t) : t.MemOk := by
  rcases withRange_cases a len s u with ⟨_, _, e⟩ | ⟨_, e⟩ <;> cases e.symm.trans h
  · exact hs
  · exact hu

theorem exec_memOk {i : Instr} {s t : State} (hs : s.MemOk) (h : exec i s = .next t) : t.MemOk := by
  cases i with
  | ldB | ldMemVx => exact withRange_memOk hs (State.storeBytes_wf hs _ _) h
  | ldVxMem => exact withRange_memOk hs (by rw [State.loadV_eq]; exact hs) h
  | drw =>
    refine withRange_memOk hs ?_ h
    exact hs
  | ret => rcases execRet_cases s with ⟨_, e⟩ | ⟨_, _, e⟩ | ⟨_, e⟩ <;> cases e.symm.trans h <;> exact hs
  | call nnn =>
    rcases execCall_cases nnn s with ⟨_, e⟩ | ⟨_, _, e⟩ | ⟨_, e⟩ <;> cases e.symm.trans h <;> exact hs
  | addReg | sub | shr | subn | shl =>
    cases h
    rw [State.commit2_eq]
    exact hs
  | cls | jp | jpV0 | seImm | sneImm | seReg | sneReg | skp | sknp | ldImm | addImm | ldReg | orReg | andReg
  | xorReg | rnd | ldI | addI | ldF | ldVxDt | ldDtVx | ldStVx | unimpl88 | unimpl89 | unimpl8A | unimpl8B
  | unimpl8C | unimpl8D | unimpl8F | unimpl0 | unimplE | unimplF =>
    cases h
    exact hs

theorem cpuTick_memOk {s t : State} (hs : s.MemOk) (h : cpuTick s = .next t) : t.MemOk := by
  rcases cpuTick_cases s with ⟨_, e⟩ | ⟨_, _, e⟩ | ⟨_, op, _, e⟩
  · cases e.symm.trans h
    exact hs
  · cases e.symm.trans h
    exact hs
  · have hfetched : (s.fetched op).MemOk := hs
    exact exec_memOk hfetched (e.symm.trans h)

/-- A `Reset` starts from memory that lists nothing and stores the ROM in it (R210). -/
theorem construct_memOk {rom : List Byte} {s t : State} (h : construct rom s = .next t) : t.MemOk := by
  have hcleared : s.cleared.MemOk := Memory.wf_nil s.params
  rcases construct_cases rom s with ⟨_, e⟩ | ⟨_, e⟩ <;> cases e.symm.trans h
  · exact State.storeBytes_wf hcleared _ rom
  · exact hcleared

theorem runEvent_memOk {e : Event} {s t : State} (hs : s.MemOk) (h : runEvent e s = .next t) :
    t.MemOk := by
  cases e with
  | reset rom => exact construct_memOk h
  | cpuTick => exact cpuTick_memOk hs (of_onMachine_next h)
  | timerTick | keySet | keyClear =>
    cases of_onMachine_next h
    exact hs
  | frameAck =>
    rcases frameAck_cases s with ⟨_, e⟩ | ⟨_, e⟩ <;> cases e.symm.trans (of_onMachine_next h)
    exact hs

/-- Settles O19: the event acts on the state it was taken from, whose memory is the same. -/
theorem stepKeepsMemoryCanonical : Obligations.StepKeepsMemoryCanonical := by
  intro s t hs h
  have htaken : s.takeEvent.2.MemOk := by
    rw [s.takeEvent_keeps]
    exact hs
  exact runEvent_memOk htaken h

/-- Settles O18: the reset state is closed data, and its memory lists nothing. -/
theorem resetIsLegal : Obligations.ResetIsLegal := ⟨Memory.wf_nil _, by decide⟩

end Sys2Proof.Machine
end

section
/-!
PROOF. What a `Reset` builds (spec/70_reset_and_hazards.md R210; spec/10_state.md R34): the contents of memory,
and every register.
-/

namespace Sys2Proof.Machine

open Sys2Proof

section
variable {rom : List Byte} {s : State}

/-- Loading the ROM writes memory and nothing else, so every register has its reset value (R210). -/
theorem State.built_eq (s : State) (rom : List Byte) :
    s.built rom = { s.cleared with mem := (s.built rom).mem } := s.cleared.storeBytes_eq 0x200 rom

@[simp] theorem State.cleared_readByte (s : State) (a : Nat) :
    s.cleared.readByte a = resetByte s.params a := rfl

/-- Every byte of the machine a `Reset` makes: the ROM from 0x200, the font below 0x50, zeros elsewhere
(R210). -/
theorem State.built_readByte_eq (hrom : rom.length ≤ 3584) (a : Nat) :
    (s.built rom).readByte a =
      if h : a < 80 then s.params.font[a] else if 0x200 ≤ a then rom.getD (a - 0x200) 0 else 0 := by
  have hwf : Memory.wf s.cleared.params s.cleared.mem := Memory.wf_nil _
  rw [State.built, State.readByte_storeBytes hwf 0x200 a rom (by omega), State.cleared_readByte, resetByte]
  by_cases hfont : a < 80
  · rw [dif_neg (by omega), dif_pos hfont, dif_pos hfont]
  · rw [dif_neg hfont, dif_neg hfont]
    by_cases hin : 0x200 ≤ a ∧ a - 0x200 < rom.length
    · rw [dif_pos hin, if_pos hin.1, List.getD_eq_getElem _ _ hin.2]
    · rw [dif_neg hin]
      split
      · rw [List.getD_eq_default _ _ (by omega)]
      · rfl

end

/-- Settles O16: memory is the ROM laid over the reset contents, and every other field is the one the `Reset`
starts from. -/
theorem resetBuildsTheMachine : Obligations.ResetBuildsTheMachine := by
  intro rom s hrom
  refine ⟨_, runEvent_reset_of_fits hrom, State.built_readByte_eq hrom, ?_⟩
  rw [State.built_eq]
  have hv : ∀ r, State.reset.readV r = 0 := by decide
  have hkeys : ∀ code, State.reset.pressed code = false := fun code => by
    simp [State.pressed, State.reset]
  exact ⟨rfl, Framebuffer.cell_blank, hv, rfl, rfl, rfl, rfl, hkeys, rfl, rfl, rfl, rfl, rfl, rfl, rfl, rfl,
    rfl⟩

/-- Settles O17: memory lists nothing, so each address reads as its reset contents. -/
theorem resetStateIsTheSpecs : Obligations.ResetStateIsTheSpecs := fun _ =>
  ⟨fun _ => rfl, rfl, Framebuffer.cell_blank⟩

end Sys2Proof.Machine
end

section
/-!
PROOF. Encoding a decoded word, and the masks of the table (spec/30_encoding.md R64, R65, R67, R68): each row of
the table is found through the fields its mask keeps.
-/

namespace Sys2Proof

/-- Every well-formed instruction's word lies in its row (R65), by the lemma of its constructor. -/
theorem Laws.EncodeInRow.encode_in_row (i : Instr) : Statement i :=
  Instr.casesOn i cls ret jp call seImm sneImm seReg ldImm addImm ldReg orReg andReg xorReg addReg sub shr subn
    shl sneReg ldI jpV0 rnd drw skp sknp ldVxDt ldDtVx ldStVx addI ldF ldB ldMemVx ldVxMem unimpl88 unimpl89
    unimpl8A unimpl8B unimpl8C unimpl8D unimpl8F unimpl0 unimplE unimplF

/-! ### A decoded word is well-formed -/

section
variable (x y n : Nibble) (kk : Byte) (nnn : Addr12) (op : Word)

theorem decode0_wellFormed : (decode0 nnn).wellFormed = true := by
  by_cases h : nnn ∈ [0x0E0, 0x0EE]
  · fin_cases h <;> rfl
  · rw [decode0_of_not_mem h]
    exact (wellFormed_unimpl0_iff nnn).2 h

theorem decode8_wellFormed : (decode8 x y n).wellFormed = true := by
  unfold decode8
  split <;> rfl

theorem decodeE_wellFormed : (decodeE x kk).wellFormed = true := by
  by_cases h : kk ∈ [0x9E, 0xA1]
  · fin_cases h <;> rfl
  · rw [decodeE_of_not_mem x h]
    exact (wellFormed_unimplE_iff x kk).2 h

theorem decodeF_wellFormed : (decodeF x kk).wellFormed = true := by
  by_cases h : kk ∈ [0x07, 0x15, 0x18, 0x1E, 0x29, 0x33, 0x55, 0x65]
  · fin_cases h <;> rfl
  · rw [decodeF_of_not_mem x h]
    exact (wellFormed_unimplF_iff x kk).2 h

theorem decode_wellFormed : (decode op).wellFormed = true := by
  unfold decode
  split
  case h_1 => exact decode0_wellFormed _
  case h_9 => exact decode8_wellFormed _ _ _
  case h_15 => exact decodeE_wellFormed _ _
  case h_16 => exact decodeF_wellFormed _ _
  all_goals rfl

/-! ### The second level: the key goes back into the word -/

theorem encode_decode0 : encode (decode0 nnn) = wordA 0x0 nnn := by
  by_cases h : nnn ∈ [0x0E0, 0x0EE]
  · fin_cases h <;> rfl
  · rw [decode0_of_not_mem h]
    rfl

theorem encode_decodeE : encode (decodeE x kk) = wordXK 0xE x kk := by
  by_cases h : kk ∈ [0x9E, 0xA1]
  · fin_cases h <;> rfl
  · rw [decodeE_of_not_mem x h]
    rfl

theorem encode_decodeF : encode (decodeF x kk) = wordXK 0xF x kk := by
  by_cases h : kk ∈ [0x07, 0x15, 0x18, 0x1E, 0x29, 0x33, 0x55, 0x65]
  · fin_cases h <;> rfl
  · rw [decodeF_of_not_mem x h]
    rfl

theorem encode_decode8 : encode (decode8 x y n) = wordXYN 0x8 x y n := by
  fin_cases n <;> rfl

end

/-! ### The first level -/

theorem decode_wordA_1 (nnn : Addr12) : decode (wordA 0x1 nnn) = .jp nnn := by
  simp [decode]

theorem decode_wordXYN_5 (x y n : Nibble) : decode (wordXYN 0x5 x y n) = .seReg x y := by
  simp [decode]

theorem decode_wordXYN_9 (x y n : Nibble) : decode (wordXYN 0x9 x y n) = .sneReg x y := by
  simp [decode]

section
variable {op : Word} {f : Nibble}

theorem wordA_of_family (h : fieldFamily op = f) : wordA f (fieldNNN op) = op :=
  h ▸ wordA_fields op

theorem wordXK_of_family (h : fieldFamily op = f) : wordXK f (fieldX op) (fieldKK op) = op :=
  h ▸ wordXK_fields op

theorem wordXYN_of_family (h : fieldFamily op = f) :
    wordXYN f (fieldX op) (fieldY op) (fieldN op) = op :=
  h ▸ wordXYN_fields op

/-- The mask `0xFFF0` clears the low nibble (R67). -/
theorem wordXYN_clear_low (x y n : Nibble) : wordXYN f x y n &&& 0xFFF0 = wordXYN f x y 0x0 := by
  rw [show (0xFFF0 : Word) =
      (0xF#4 ++ (0xF#4 ++ (0xF#4 ++ 0x0#4 : BitVec 8) : BitVec 12) : BitVec 16) by decide, wordXYN,
    wordXK, wordA, BitVec.and_append, BitVec.and_append, BitVec.and_append,
    show 15#4 = BitVec.allOnes 4 by decide, BitVec.and_allOnes, BitVec.and_allOnes, BitVec.and_allOnes]
  simp [wordXYN, wordXK, wordA]

/-- Families 5 and 9 ignore the low nibble, and the encoder writes 0 there (R67, decision D3). -/
theorem encode_decode_of_family_5_9 (h : fieldFamily op = 5 ∨ fieldFamily op = 9) :
    encode (decode op) = op &&& 0xFFF0 := by
  rcases h with h | h
  · rw [← wordXYN_of_family h, wordXYN_clear_low, decode_wordXYN_5]
    rfl
  · rw [← wordXYN_of_family h, wordXYN_clear_low, decode_wordXYN_9]
    rfl

/-- In every other family each bit of the word is the family, an operand or a key, and so comes back. -/
theorem encode_decode_of_family (h5 : fieldFamily op ≠ 5) (h9 : fieldFamily op ≠ 9) :
    encode (decode op) = op := by
  have hfam {k : Nibble} (h : (fieldFamily op).toNat = k.toNat) : fieldFamily op = k :=
    BitVec.eq_of_toNat_eq h
  unfold decode
  split
  case h_1 h => exact (encode_decode0 _).trans (wordA_of_family (hfam h))
  case h_2 h | h_3 h | h_11 h | h_12 h => exact wordA_of_family (hfam h)
  case h_4 h | h_5 h | h_7 h | h_8 h | h_13 h => exact wordXK_of_family (hfam h)
  case h_6 h => exact (h5 (hfam h)).elim
  case h_9 h => exact (encode_decode8 ..).trans (wordXYN_of_family (hfam h))
  case h_10 h => exact (h9 (hfam h)).elim
  case h_14 h => exact wordXYN_of_family (hfam h)
  case h_15 h => exact (encode_decodeE ..).trans (wordXK_of_family (hfam h))
  case h_16 =>
    have hF : (fieldFamily op).toNat = 15 := by
      simp only [imp_false] at *
      omega
    exact (encode_decodeF ..).trans (wordXK_of_family (hfam hF))

end

/-- Settles O2, by the family: 5 and 9 lose their low nibble, the others nothing. -/
theorem encodeOfDecode : Obligations.EncodeOfDecode := by
  intro op
  refine ⟨decode_wellFormed op, ?_⟩
  split
  · next h => exact encode_decode_of_family_5_9 h
  · next h =>
    obtain ⟨h5, h9⟩ := not_or.1 h
    exact encode_decode_of_family h5 h9

/-! ### Masks and fields -/

section
variable {op w : Word}

theorem fieldFamily_of_mask (h : op &&& 0xF000 = w) : fieldFamily op = fieldFamily w := by
  have hmask := Laws.EncodeInRow.wordA_mask (fieldFamily op) (fieldNNN op)
  rw [wordA_fields, h] at hmask
  rw [hmask, fieldFamily_wordA]

theorem fields_of_mask_XK (h : op &&& 0xF0FF = w) :
    fieldFamily op = fieldFamily w ∧ fieldKK op = fieldKK w := by
  have hmask := Laws.EncodeInRow.wordXK_mask (fieldFamily op) (fieldX op) (fieldKK op)
  rw [wordXK_fields, h] at hmask
  rw [hmask, fieldFamily_wordXK, fieldKK_wordXK]
  exact ⟨rfl, rfl⟩

theorem fields_of_mask_XYN (h : op &&& 0xF00F = w) :
    fieldFamily op = fieldFamily w ∧ fieldN op = fieldN w := by
  have hmask := Laws.EncodeInRow.wordXYN_mask (fieldFamily op) (fieldX op) (fieldY op) (fieldN op)
  rw [wordXYN_fields, h] at hmask
  rw [hmask, fieldFamily_wordXYN, fieldN_wordXYN]
  exact ⟨rfl, rfl⟩

theorem eq_of_mask_all (h : op &&& 0xFFFF = w) : op = w := by
  rw [← h, show (0xFFFF : Word) = BitVec.allOnes 16 by decide, BitVec.and_allOnes]

end

/-- Every word lies in the row it decodes to: its encoding does, and where the two differ, in families 5 and 9,
the row's mask leaves the low nibble out (R65, R67). -/
theorem and_row_of_decode (op : Word) : op &&& (decode op).row.1 = (decode op).row.2 := by
  by_cases h : fieldFamily op = 5 ∨ fieldFamily op = 9
  · rcases h with h | h
    · rw [← wordXYN_of_family h, decode_wordXYN_5]
      exact Laws.EncodeInRow.family_mask _ _ _ rfl
    · rw [← wordXYN_of_family h, decode_wordXYN_9]
      exact Laws.EncodeInRow.family_mask _ _ _ rfl
  · obtain ⟨h5, h9⟩ := not_or.1 h
    have hrow := Laws.EncodeInRow.encode_in_row (decode op) (decode_wellFormed op)
    rwa [encode_decode_of_family h5 h9] at hrow

/-- A word in an instruction's row decodes to an instruction of that row: the mask keeps the fields by which the
decoder selects (R64, R65). -/
theorem row_of_and_row {op : Word} {i : Instr} (hi : i.unimplemented = false)
    (h : op &&& i.row.1 = i.row.2) : (decode op).row = i.row := by
  cases i with dsimp only [Instr.row] at h ⊢
  | cls | ret =>
    rw [eq_of_mask_all h]
    rfl
  | jp | call | seImm | sneImm | seReg | ldImm | addImm | sneReg | ldI | jpV0 | rnd | drw =>
    rw [decode, fieldFamily_of_mask h]
    rfl
  | ldReg | orReg | andReg | xorReg | addReg | sub | shr | subn | shl =>
    obtain ⟨hf, hn⟩ := fields_of_mask_XYN h
    rw [decode_of_family_8 hf, hn]
    rfl
  | skp | sknp =>
    obtain ⟨hf, hkk⟩ := fields_of_mask_XK h
    rw [decode_of_family_E hf, hkk]
    rfl
  | ldVxDt | ldDtVx | ldStVx | addI | ldF | ldB | ldMemVx | ldVxMem =>
    obtain ⟨hf, hkk⟩ := fields_of_mask_XK h
    rw [decode_of_family_F hf, hkk]
    rfl
  | unimpl88 | unimpl89 | unimpl8A | unimpl8B | unimpl8C | unimpl8D | unimpl8F | unimpl0 | unimplE
  | unimplF => cases hi

/-- Settles O3: the mask keeps the fields the row is selected by, and every word lies in the row of its own
instruction. -/
theorem rowSelectedByMaskAndMatch : Obligations.RowSelectedByMaskAndMatch := by
  intro op i hi
  refine ⟨row_of_and_row hi, fun h => ?_⟩
  rw [← h]
  exact and_row_of_decode op

/-- Settles O5: families 5 and 9 are read without the low nibble, and the shifts are given `X` alone. -/
theorem dontCareFields : Obligations.DontCareFields := fun x y n _ =>
  ⟨decode_wordXYN_5 x y n, decode_wordXYN_9 x y n, fun _ => ⟨rfl, rfl⟩⟩

/-- Settles O6: fourteen closed words. -/
theorem wordsOfTheSpecDecode : Obligations.WordsOfTheSpecDecode := by
  unfold Obligations.WordsOfTheSpecDecode
  decide

end Sys2Proof
end

section
/-!
PROOF. Which instructions change each register (spec/10_state.md R20, R23 to R28): a register that changed is
one the table of writes names.
-/

namespace Sys2Proof.Machine

open Sys2Proof

/-! ### The table, register by register -/

section
variable {s : State} {i : Instr}

theorem eq_of_writesOf_i (h : (writesOf s i).i = true) :
    (∃ nnn, i = .ldI nnn) ∨ ∃ x, i = .addI x ∨ i = .ldF x := by
  cases i <;> simp [writesOf] at h ⊢

theorem eq_of_writesOf_dt (h : (writesOf s i).dt = true) : ∃ x, i = .ldDtVx x := by
  cases i <;> simp [writesOf] at h ⊢

theorem eq_of_writesOf_st (h : (writesOf s i).st = true) : ∃ x, i = .ldStVx x := by
  cases i <;> simp [writesOf] at h ⊢

/-- The framebuffer and `drawFlag` have the same writers (R27, R28). -/
theorem eq_of_writesOf_display (h : (writesOf s i).fb = true ∨ (writesOf s i).drawFlag = true) :
    i = .cls ∨ ∃ x y n, i = .drw x y n := by
  cases i <;> simp [writesOf] at h ⊢

end

/-! ### What a change says -/

section
variable {s t : State}

/-- A field that is kept unless it is named has changed only if it is named. -/
theorem named_of_changed {named : Bool} {kept : Prop} (hk : named = false → kept) (h : ¬ kept) :
    named = true := by
  cases named with
  | false => exact absurd (hk rfl) h
  | true => rfl

/-- `00EE` leaves the popped entry where it is (R100). -/
theorem execRet_stack (h : execRet s = .next t) : t.stack = s.stack := by
  rcases execRet_cases s with ⟨_, e⟩ | ⟨_, _, e⟩ | ⟨_, e⟩ <;> cases e.symm.trans h <;> rfl

theorem execDrw_drawFlag {x y n : Nibble} (h : execDrw x y n s = .next t) :
    t.drawFlag = true ∨ t.drawFlag = s.drawFlag := by
  unfold execDrw at h
  rcases withRange_cases s.i.toNat n.toNat s _ with ⟨_, _, e⟩ | ⟨_, e⟩ <;> cases e.symm.trans h
  · exact .inr rfl
  · exact .inl rfl

theorem eq_call_of_stack_ne {i : Instr} (hk : Keeps (writesOf s i) s t) (h : exec i s = .next t)
    (hne : t.stack ≠ s.stack) : ∃ nnn, i = .call nnn := by
  rcases eq_of_writesOf_stack (named_of_changed hk.stack fun hst => hne hst.2) with rfl | hcall
  · exact absurd (execRet_stack h) hne
  · exact hcall

/-- No instruction sets `drawFlag` to false (R28, R89). -/
theorem exec_drawFlag {i : Instr} (hk : Keeps (writesOf s i) s t) (h : exec i s = .next t)
    (hflag : s.drawFlag = true) : t.drawFlag = true := by
  by_contra hne
  have hchanged : ¬ t.drawFlag = s.drawFlag := by rwa [hflag]
  rcases eq_of_writesOf_display (.inr (named_of_changed hk.drawFlag hchanged)) with rfl | ⟨x, y, n, rfl⟩
  · cases h
    exact hne rfl
  · rcases execDrw_drawFlag h with htrue | hsame
    · exact hne htrue
    · exact hchanged hsame

end

/-- Settles O27: an instruction keeps to the table of writes, or it enters a fatal condition and changes none of
these registers. -/
theorem registersChangeOnlyByTheirWriters : Obligations.RegistersChangeOnlyByTheirWriters := by
  intro i s t h
  rcases exec_keeps_or_fatal h with hk | ⟨_, _, rfl, _⟩
  · refine ⟨fun hi => eq_of_writesOf_i (named_of_changed hk.i hi),
      fun hdt => eq_of_writesOf_dt (named_of_changed hk.dt hdt),
      fun hst => eq_of_writesOf_st (named_of_changed hk.st hst),
      fun hsp => eq_of_writesOf_stack (named_of_changed hk.stack fun hst => hsp hst.1),
      eq_call_of_stack_ne hk h,
      fun hpc => eq_of_writesOf_pc (named_of_changed hk.pc hpc),
      fun hfb => eq_of_writesOf_display (hfb.imp (named_of_changed hk.fb) (named_of_changed hk.drawFlag)),
      exec_drawFlag hk h, hk.ir, hk.keys⟩
  · have same {p : Prop} {α : Type} {a : α} (hne : a ≠ a) : p := absurd rfl hne
    exact ⟨same, same, same, same, same, same, fun hne => hne.elim same same, id, rfl, rfl⟩

end Sys2Proof.Machine
end

section
/-!
PROOF. The events that act on ports and timers, and which event is next (spec/40_cycle_and_events.md R86, R88 to
R91).
-/

namespace Sys2Proof.Machine

open Sys2Proof

section
variable {s : State}

/-- Where no event waits, the step is the schedule's next event (R90). -/
theorem step_of_events_nil (h : s.events = []) :
    step s = runEvent (Config.schedule s.scheduled) { s with scheduled := s.scheduled + 1 } := by
  rw [step, nextEvent, State.takeEvent_nil h]

/-! ### Timers -/

/-- A timer at 0 stays, and `0 - 1` is 0 in the naturals too (R86). -/
theorem countDown_toNat (t : Byte) : (countDown t).toNat = t.toNat - 1 := by
  unfold countDown
  split
  · next h => rw [h]; rfl
  · next h => exact sp_sub_one_toNat h

/-! ### Keys -/

/-- A code names a bit of `keys` only below 16, so two of them agree as naturals or not at all. -/
theorem State.pressed_keySet (s : State) (k : Nibble) (code : Byte) :
    (s.keySet k).pressed code = (s.pressed code || decide (code.toNat = k.toNat)) := by
  by_cases h : code.toNat < 16
  · rw [State.pressed_of_lt _ h, State.pressed_of_lt _ h, State.keySet, BitVec.getLsbD_or,
      BitVec.getLsbD_twoPow]
    simp [h, k.isLt, eq_comm]
  · have := k.isLt
    rw [State.pressed_of_ge _ (by omega), State.pressed_of_ge _ (by omega), decide_eq_false (by omega)]
    rfl

theorem State.pressed_keyClear (s : State) (k : Nibble) (code : Byte) :
    (s.keyClear k).pressed code = (s.pressed code && !decide (code.toNat = k.toNat)) := by
  by_cases h : code.toNat < 16
  · rw [State.pressed_of_lt _ h, State.pressed_of_lt _ h, State.keyClear, BitVec.getLsbD_and,
      BitVec.getLsbD_not, BitVec.getLsbD_twoPow]
    simp [h, k.isLt, eq_comm]
  · rw [State.pressed_of_ge _ (by omega), State.pressed_of_ge _ (by omega)]
    rfl

/-! ### The jump to itself -/

theorem cpuTick_of_fetch {op : Word} (hrun : s.halt = .none) (h : s.fetch = some op) :
    cpuTick s = exec (decode op) (s.fetched op) := by
  rcases cpuTick_cases s with ⟨hhalt, _⟩ | ⟨_, hnone, _⟩ | ⟨_, op', hop', e⟩
  · exact absurd hrun hhalt
  · cases hnone.symm.trans h
  · cases hop'.symm.trans h
    exact e

end

/-- Settles O7. -/
theorem stepTakesOldestEvent : Obligations.StepTakesOldestEvent := fun _ =>
  ⟨step_of_events_nil, fun _ _ => step_of_events_cons⟩

/-- Settles O10: both timers count down, and `TimerTick` writes nothing else. -/
theorem timerTickCountsDown : Obligations.TimerTickCountsDown := fun s hs =>
  ⟨s.timerTick, onMachine_of_created hs _, countDown_toNat s.dt, countDown_toNat s.st, rfl⟩

/-- Settles O11: each event writes one bit of `keys`. -/
theorem keyEventsChangeOneKey : Obligations.KeyEventsChangeOneKey := fun s k hs =>
  ⟨⟨s.keySet k, onMachine_of_created hs _, rfl, s.pressed_keySet k⟩,
    ⟨s.keyClear k, onMachine_of_created hs _, rfl, s.pressed_keyClear k⟩⟩

/-- Settles O12, by `drawFlag`. -/
theorem frameAckClearsDrawFlag : Obligations.FrameAckClearsDrawFlag := fun _ hs =>
  ⟨fun hflag => (onMachine_of_created hs _).trans (if_pos hflag),
    fun hflag => (onMachine_of_created hs _).trans (if_neg (by simp [hflag]))⟩

/-- Settles O14: the fetch writes the IR there was, and the jump takes PC back to where it was. -/
theorem selfJumpChangesNothing : Obligations.SelfJumpChangesNothing := by
  intro s nnn hrun hfetch hir hpc
  have hback : addrWord nnn = s.pc := BitVec.eq_of_toNat_eq ((addrWord_toNat nnn).trans hpc.symm)
  rw [cpuTick_of_fetch hrun hfetch, decode_wordA_1, exec_jp, hback, ← hir]
  rfl

end Sys2Proof.Machine
end

section
/-!
PROOF. The unimplemented encodings (spec/47_unimplemented.md R170): a no-op each, and when a cycle reports one.
-/

namespace Sys2Proof.Machine

open Sys2Proof

/-- An unimplemented row is a no-op. -/
theorem exec_of_unimplemented {i : Instr} (h : i.unimplemented = true) (s : State) :
    exec i s = .next s := by
  cases i with
  | unimpl88 | unimpl89 | unimpl8A | unimpl8B | unimpl8C | unimpl8D | unimpl8F | unimpl0 | unimplE
  | unimplF => rfl
  | _ => cases h

/-- Where a cycle reports, and what (R170). -/
theorem unimplReport_eq_some_iff (s : State) (op : Word) : unimplReport s = some op ↔
    s.halt = .none ∧ s.fetch = some op ∧ (decode op).unimplemented = true := by
  unfold unimplReport
  cases hhalt : s.halt with
  | none =>
    cases hfetch : s.fetch with
    | none => simp
    | some w =>
      by_cases hw : (decode w).unimplemented = true
      · simp only [hw, if_true, Option.some.injEq, true_and]
        exact ⟨fun h => ⟨h, h ▸ hw⟩, fun h => h.1⟩
      · simp only [hw, Bool.false_eq_true, if_false, Option.some.injEq, true_and]
        exact ⟨nofun, fun h => absurd (h.1 ▸ h.2) hw⟩
  | fetchOutOfRange | dataOutOfRange | stackOverflow | stackUnderflow => simp

/-- Settles O57: each of the ten is an unimplemented row. -/
theorem unimplementedChangesNothing : Obligations.UnimplementedChangesNothing := fun s _ _ _ _ =>
  have nop {i : Instr} (h : i.unimplemented = true) : exec i s = .next s := exec_of_unimplemented h s
  ⟨nop rfl, nop rfl, nop rfl, nop rfl, nop rfl, nop rfl, nop rfl, nop rfl, nop rfl, nop rfl⟩

/-- Settles O58: a reporting cycle is a fetch and a no-op. -/
theorem unimplementedIsReported : Obligations.UnimplementedIsReported := by
  intro s op
  refine ⟨unimplReport_eq_some_iff s op, fun h => ?_⟩
  obtain ⟨hrun, hfetch, hunimpl⟩ := (unimplReport_eq_some_iff s op).1 h
  exact (cpuTick_of_fetch hrun hfetch).trans (exec_of_unimplemented hunimpl _)

end Sys2Proof.Machine
end

section
/-!
PROOF. The edges of `sound_on` (spec/40_cycle_and_events.md R87): an edge is a change of ST, and few events change
ST.
-/

namespace Sys2Proof.Machine

open Sys2Proof

theorem exec_st_ne {i : Instr} {s t : State} (h : exec i s = .next t) (hst : t.st ≠ s.st) :
    ∃ x, i = .ldStVx x ∧ t.st = s.readV x := by
  rcases exec_keeps_or_fatal h with hk | ⟨_, _, rfl, _⟩
  · cases hw : (writesOf s i).st with
    | false => exact absurd (hk.st hw) hst
    | true =>
      obtain ⟨x, rfl⟩ := eq_of_writesOf_st hw
      cases h
      exact ⟨x, rfl, rfl⟩
  · exact absurd rfl hst

/-- A cycle that changes ST has run `FX18`, which copies its register there. -/
theorem cpuTick_st_ne {s t : State} (h : cpuTick s = .next t) (hst : t.st ≠ s.st) :
    s.halt = .none ∧ ∃ (op : Word) (x : Nibble),
      s.fetch = some op ∧ decode op = .ldStVx x ∧ t.st = s.readV x := by
  rcases cpuTick_cases s with ⟨_, e⟩ | ⟨_, _, e⟩ | ⟨hrun, op, hop, e⟩
  · cases e.symm.trans h
    exact absurd rfl hst
  · cases e.symm.trans h
    exact absurd rfl hst
  · obtain ⟨x, hx, hval⟩ := exec_st_ne (e.symm.trans h) hst
    exact ⟨hrun, op, x, hop, hx, hval⟩

/-- All the ways an event changes ST: a `Reset`, which leaves 0; a `TimerTick`, which counts down; a cycle that
runs `FX18` (R87). -/
theorem runEvent_st_ne {e : Event} {s t : State} (h : runEvent e s = .next t) (hst : t.st ≠ s.st) :
    ((∃ rom, e = .reset rom) ∧ t.st = 0) ∨ (e = .timerTick ∧ t.st = countDown s.st) ∨
      (e = .cpuTick ∧ s.halt = .none ∧ ∃ (op : Word) (x : Nibble),
        s.fetch = some op ∧ decode op = .ldStVx x ∧ t.st = s.readV x) := by
  cases e with
  | reset rom =>
    refine .inl ⟨⟨rom, rfl⟩, ?_⟩
    rcases construct_cases rom s with ⟨_, e⟩ | ⟨_, e⟩ <;> cases e.symm.trans h
    · exact s.cleared.storeBytes_st ..
    · rfl
  | cpuTick => exact .inr (.inr ⟨rfl, cpuTick_st_ne (of_onMachine_next h) hst⟩)
  | timerTick =>
    cases of_onMachine_next h
    exact .inr (.inl ⟨rfl, rfl⟩)
  | keySet | keyClear =>
    cases of_onMachine_next h
    exact absurd rfl hst
  | frameAck =>
    rcases frameAck_cases s with ⟨_, e⟩ | ⟨_, e⟩ <;> cases e.symm.trans (of_onMachine_next h)
    exact absurd rfl hst

theorem soundStarts_iff (s t : State) : soundStarts s t = true ↔ s.st = 0 ∧ t.st ≠ 0 := by
  simp [soundStarts, soundOn]

theorem soundStops_iff (s t : State) : soundStops s t = true ↔ s.st ≠ 0 ∧ t.st = 0 := by
  simp [soundStops, soundOn]

theorem eq_one_of_countDown_eq_zero {t : Byte} (ht : t ≠ 0) (h : countDown t = 0) : t = 1 := by
  have hcount := countDown_toNat t
  rw [h] at hcount
  bv_omega

/-- Settles O13: an edge is a change of ST, so it is one of the three ways ST changes. -/
theorem soundEdges : Obligations.SoundEdges := by
  intro e s t h
  rw [soundStarts_iff, soundStops_iff]
  constructor
  · rintro ⟨hs, ht⟩
    rcases runEvent_st_ne h (by rwa [hs]) with ⟨_, h0⟩ | ⟨_, hcount⟩ | ⟨he, hrun, op, x, hop, hx, hval⟩
    · exact absurd h0 ht
    · exact absurd (hcount.trans (by rw [hs]; rfl)) ht
    · exact ⟨he, hrun, op, x, hop, hx, hval ▸ ht⟩
  · rintro ⟨hs, ht⟩
    rcases runEvent_st_ne h (by rw [ht]; exact hs.symm) with
      ⟨hreset, _⟩ | ⟨he, hcount⟩ | ⟨he, hrun, op, x, hop, hx, hval⟩
    · exact .inr (.inl hreset)
    · exact .inl ⟨he, eq_one_of_countDown_eq_zero hs (hcount.symm.trans ht)⟩
    · exact .inr (.inr ⟨he, hrun, op, x, hop, hx, hval.symm.trans ht⟩)

end Sys2Proof.Machine
end

section
/-!
PROOF. The ALU instructions with a flag where the destination is not VF (spec/43_alu.md R127 to R131), and the
random byte (R132).
-/

namespace Sys2Proof.Machine

open Sys2Proof

/-- The carry of `8XY4` as the byte written (R127). -/
theorem addFlag_eq (a b : Byte) : addFlag a b = if a.toNat + b.toNat > 255 then 1 else 0 := by
  simp only [addFlag, flagByte, decide_eq_true_eq]

/-- The flag of `8XY5` and `8XY7` as the byte written (R128, R130). -/
theorem subFlag_eq (a b : Byte) : subFlag a b = if a.toNat > b.toNat then 1 else 0 := by
  simp only [subFlag, flagByte, decide_eq_true_eq]

section
variable {s : State} {x : Nibble}

/-- An instruction that answers `commit2` on a register other than VF leaves the result there and the flag in
VF, and changes nothing else (R120). -/
theorem answers_commit2 {i : Instr} {r f : Byte} {result : Nat} (hx : x ≠ vf)
    (hi : exec i s = .next (s.commit2 x r f)) (hr : r.toNat = result) :
    ∃ t : State, exec i s = .next t ∧ (t.readV x).toNat = result ∧ t.readV vf = f ∧
      Keeps { v := [x, vf] } s t :=
  ⟨_, hi, by rw [State.readV_commit2_result s hx, hr], State.readV_commit2_flag s hx r f,
    keeps_commit2 s x r f⟩

end

/-- Settles O41: one `commit2` with the sum and its carry. -/
theorem addWithCarryOut : Obligations.AddWithCarryOut := by
  intro s x y hx
  rw [← addFlag_eq]
  exact answers_commit2 hx (exec_addReg x y s) (BitVec.toNat_add _ _)

/-- Settles O42: each is one `commit2` with a difference and the comparison of the same two operands. -/
theorem subtractBothWays : Obligations.SubtractBothWays := by
  intro s x y hx
  rw [← subFlag_eq, ← subFlag_eq]
  exact ⟨answers_commit2 hx (exec_sub x y s) (byte_sub_toNat _ _),
    answers_commit2 hx (exec_subn x y s) (byte_sub_toNat _ _)⟩

/-- Settles O43: each is one `commit2` with the shifted byte and the bit shifted out. -/
theorem shiftByOne : Obligations.ShiftByOne := by
  intro s x y hx
  obtain ⟨t, ht, hresult, hflag, hkeeps⟩ := answers_commit2 hx (exec_shr x y s) (byte_shr_one_toNat _)
  obtain ⟨u, hu, hresult', hflag', hkeeps'⟩ := answers_commit2 hx (exec_shl x y s) (byte_shl_one_toNat _)
  exact ⟨⟨t, ht, hresult, by rw [hflag, shrFlag_toNat], hkeeps⟩,
    ⟨u, hu, hresult', by rw [hflag', shlFlag_toNat], hkeeps'⟩⟩

theorem exec_rnd (s : State) (x : Nibble) (kk : Byte) : exec (.rnd x kk) s =
    .next { s.writeV x (s.randomByte &&& kk) with draws := s.draws + 1 } := rfl

/-- Settles O45: a mask only clears bits. -/
theorem randomByteUnderMask : Obligations.RandomByteUnderMask := by
  intro s x kk
  have hread := State.readV_writeV_same (s := s) x (s.randomByte &&& kk)
  refine ⟨_, exec_rnd s x kk, hread, ?_, rfl, { keeps_writeV s x _ with draws := nofun }⟩
  calc ((s.writeV x (s.randomByte &&& kk)).readV x).toNat
      = s.randomByte.toNat &&& kk.toNat := by rw [hread, BitVec.toNat_and]
    _ ≤ kk.toNat := Nat.and_le_right

end Sys2Proof.Machine
end

section
/-!
PROOF. `BNNN` (spec/41_flow.md R103), the skips on registers and keys (spec/42_skip.md R113 to R116) and the
delay timer (spec/46_timers.md R160, R161).
-/

namespace Sys2Proof.Machine

open Sys2Proof

section
variable (s : State)

theorem exec_jpV0 (nnn : Addr12) :
    exec (.jpV0 nnn) s = .next { s with pc := byteWord (s.readV 0) + addrWord nnn } := rfl

/-- A byte and an address field add without wrapping (R103). -/
theorem byteWord_add_addrWord_toNat (b : Byte) (nnn : Addr12) :
    (byteWord b + addrWord nnn).toNat = b.toNat + nnn.toNat := by
  have := b.isLt
  have := nnn.isLt
  rw [BitVec.toNat_add, byteWord_toNat, addrWord_toNat]
  omega

theorem exec_seReg (x y : Nibble) :
    exec (.seReg x y) s = .next (s.skipIf (decide (s.readV x = s.readV y))) := rfl

theorem exec_sneReg (x y : Nibble) :
    exec (.sneReg x y) s = .next (s.skipIf (decide (s.readV x ≠ s.readV y))) := rfl

theorem exec_skp (x : Nibble) : exec (.skp x) s = .next (s.skipIf (s.pressed (s.readV x))) := rfl

theorem exec_sknp (x : Nibble) : exec (.sknp x) s = .next (s.skipIf (!s.pressed (s.readV x))) := rfl

/-- The keys that are pressed have codes up to 15 (R115, D16). -/
theorem State.pressed_iff (code : Byte) :
    s.pressed code = true ↔ code.toNat ≤ 15 ∧ s.keys.getLsbD code.toNat = true := by
  rw [State.pressed, Bool.and_eq_true, decide_eq_true_eq, Nat.lt_succ_iff]

theorem exec_ldVxDt (x : Nibble) : exec (.ldVxDt x) s = .next (s.writeV x s.dt) := rfl

theorem exec_ldDtVx (x : Nibble) : exec (.ldDtVx x) s = .next { s with dt := s.readV x } := rfl

end

/-- Settles O33: the sum is below 65536. -/
theorem jumpWithOffsetAddsV0 : Obligations.JumpWithOffsetAddsV0 := fun s nnn =>
  ⟨_, exec_jpV0 s nnn, byteWord_add_addrWord_toNat _ nnn, { keeps_refl _ s with pc := nofun }⟩

/-- Settles O37: each answers the skip under its own comparison, and its word is read without the low nibble. -/
theorem skipOnRegister : Obligations.SkipOnRegister := by
  intro s x y n
  obtain ⟨t, ht, hpc, hkeeps⟩ := exec_skips (exec_seReg s x y)
  obtain ⟨u, hu, hpc', hkeeps'⟩ := exec_skips (exec_sneReg s x y)
  exact ⟨⟨t, ht, decode_wordXYN_5 x y n, hpc, hkeeps⟩, ⟨u, hu, decode_wordXYN_9 x y n, hpc', hkeeps'⟩⟩

/-- Settles O38: both skip on the one key test, `EXA1` on its negation. -/
theorem skipOnKey : Obligations.SkipOnKey := by
  intro s x
  refine ⟨s.pressed (s.readV x), s.pressed_iff _, ⟨_, exec_skp s x, rfl, keeps_skipIf s _⟩,
    ⟨_, exec_sknp s x, ?_, keeps_skipIf s _⟩⟩
  rw [State.skipIf_pc]
  cases s.pressed (s.readV x) <;> rfl

/-- Settles O55: one write of `V[X]`, and one of DT. -/
theorem delayTimerAccess : Obligations.DelayTimerAccess := fun s x =>
  ⟨exec_writes (exec_ldVxDt s x), ⟨_, exec_ldDtVx s x, rfl, { keeps_refl _ s with dt := nofun }⟩⟩

end Sys2Proof.Machine
end

section
/-!
PROOF. Arithmetic on I and the transfers at I (spec/44_index_memory.md R141 to R145).
-/

namespace Sys2Proof.Machine

open Sys2Proof

section
variable (s : State) (x : Nibble)

theorem exec_addI : exec (.addI x) s = .next { s with i := s.i + byteWord (s.readV x) } := rfl

theorem exec_ldF : exec (.ldF x) s = .next { s with i := byteWord (s.readV x) * 5 } := rfl

theorem exec_ldB : exec (.ldB x) s =
    withRange s.i.toNat 3 s (s.storeBytes s.i.toNat (bcdDigits (s.readV x))) := rfl

theorem exec_ldMemVx : exec (.ldMemVx x) s =
    withRange s.i.toNat (x.toNat + 1) s (s.storeBytes s.i.toNat (s.firstV x)) := rfl

theorem exec_ldVxMem : exec (.ldVxMem x) s =
    withRange s.i.toNat (x.toNat + 1) s (s.loadV s.i.toNat (x.toNat + 1)) := rfl

/-- Five times a byte fits in a word (R142). -/
theorem byteWord_mul_five_toNat (b : Byte) : (byteWord b * 5).toNat = b.toNat * 5 := by
  have := b.isLt
  rw [BitVec.toNat_mul, byteWord_toNat]
  exact Nat.mod_eq_of_lt (by simp; omega)

end

/-- Reading byte `k` of a store of several bytes. -/
theorem State.readByte_storeBytes_add {s : State} (h : s.MemOk) {a k : Nat} {bs : List Byte}
    (hr : a + bs.length ≤ 4096) (hk : k < bs.length) : (s.storeBytes a bs).readByte (a + k) = bs[k] := by
  rw [State.readByte_storeBytes h a _ bs hr, dif_pos ⟨by omega, by omega⟩]
  simp only [Nat.add_sub_cancel_left]

/-- Settles O47: I has 16 bits, and five times a byte fits in them. -/
theorem indexArithmetic : Obligations.IndexArithmetic := fun s x =>
  ⟨⟨_, exec_addI s x, by rw [BitVec.toNat_add, byteWord_toNat], { keeps_refl _ s with i := nofun }⟩,
    ⟨_, exec_ldF s x, byteWord_mul_five_toNat _, { keeps_refl _ s with i := nofun }⟩⟩

/-- Settles O48: the range check of three bytes, then the store of three digits. -/
theorem bcdStoresThreeDigits : Obligations.BcdStoresThreeDigits := by
  intro s x
  refine ⟨fun hout => raises_of_range (exec_ldB s x) (by decide) (by omega), fun hs hin => ?_⟩
  have hrange : s.i.toNat + (bcdDigits (s.readV x)).length ≤ 4096 := by
    simp only [bcdDigits, List.length]
    omega
  have hv := (s.readV x).isLt
  have hdigit {k d : Nat} (hk : k < 3) (hd : d < 256) (he : (bcdDigits (s.readV x))[k] = BitVec.ofNat 8 d) :
      ((s.storeBytes s.i.toNat (bcdDigits (s.readV x))).readByte (s.i.toNat + k)).toNat = d := by
    rw [State.readByte_storeBytes_add hs hrange hk, he, BitVec.toNat_ofNat, Nat.mod_eq_of_lt hd]
  exact ⟨_, (exec_ldB s x).trans (withRange_ok (.inr (by omega))),
    hdigit (k := 0) (by omega) (by omega) rfl, hdigit (by omega) (by omega) rfl,
    hdigit (by omega) (by omega) rfl, keeps_storeBytes_range s _ (bcdDigits (s.readV x))⟩

/-- Settles O49: the range check of `X + 1` bytes, then the store of `V[0]` to `V[X]`. -/
theorem storeRegisters : Obligations.StoreRegisters := by
  intro s x
  refine ⟨fun hout => raises_of_range (exec_ldMemVx s x) (by omega) (by omega), fun hs hin => ?_⟩
  have hlen := s.firstV_length x
  refine ⟨_, (exec_ldMemVx s x).trans (withRange_ok (.inr (by omega))), fun r hr => ?_,
    hlen ▸ keeps_storeBytes_range s s.i.toNat (s.firstV x)⟩
  rw [State.readByte_storeBytes_add hs (by omega) (by omega), State.firstV_getElem, BitVec.ofNat_toNat,
    BitVec.setWidth_eq]

/-- Settles O50: the range check of `X + 1` bytes, then the load of `V[0]` to `V[X]`. -/
theorem loadRegisters : Obligations.LoadRegisters := by
  intro s x
  have hx := x.isLt
  refine ⟨fun hout => raises_of_range (exec_ldVxMem s x) (by omega) (by omega), fun hin => ?_⟩
  refine ⟨_, (exec_ldVxMem s x).trans (withRange_ok (.inr (by omega))), fun r hr => ?_, keeps_loadV s _ x⟩
  rw [State.readV_loadV s _ _ (by omega), if_pos (by omega)]

/-- What an address reads as depends on memory and FONT alone (R40). -/
theorem State.readByte_congr {t u : State} (hmem : u.mem = t.mem) (hparams : u.params = t.params) (a : Nat) :
    u.readByte a = t.readByte a := by
  rw [State.readByte, State.readByte, hmem, hparams]

/-- Settles O51: each register is loaded from the address it was stored at. -/
theorem loadReadsBackStore : Obligations.LoadReadsBackStore := by
  intro s t u x hs hin hstore hmem hparams hi
  obtain ⟨t', ht', hstored, hkeeps⟩ := (storeRegisters s x).2 hs hin
  cases ht'.symm.trans hstore
  have hui : u.i = s.i := hi.trans (hkeeps.i rfl)
  obtain ⟨w, hw, hloaded, _⟩ := (loadRegisters u x).2 (by rwa [hui])
  refine ⟨w, hw, fun r hr => ?_⟩
  rw [hloaded r hr, State.readByte_congr hmem hparams, hui, hstored r hr]

/-- Settles O29: the store leaves PC where it was, so the fetch reads what was stored at I. -/
theorem storedCodeIsFetchedNext : Obligations.StoredCodeIsFetchedNext := by
  intro s x hs hpc hx hin
  obtain ⟨t, ht, hstored, hkeeps⟩ := (storeRegisters s x).2 hs hin
  have htpc : t.pc = s.i := (hkeeps.pc rfl).trans hpc.symm
  refine ⟨t, ht, ?_⟩
  rw [State.fetch_of_in_range (by rw [htpc]; omega), State.wordAtPc, htpc, ← hstored 0 (by simp),
    ← hstored 1 hx]
  rfl

end Sys2Proof.Machine
end

section
/-!
PROOF. The display (spec/45_display.md R150 to R152; spec/95_test_vectors.md S6): clearing it, what the loops of
`DXYN` draw in terms of `State.spriteBit`, and drawing twice.
-/

namespace Sys2Proof.Machine

open Sys2Proof

/-! ### The sprite bit of a cell, row by row -/

section
variable (s : State) (vx vy n : Nibble)

/-- Sprite row `r` is not dropped by P_VCLIP and has a 1 bit on column `col` (R151, R152). -/
def State.spriteRowBit (r : Nat) (col : Fin 64) : Bool :=
  !(s.params.vclip && decide ((s.readV vy).toNat % 32 + r > 31)) &&
    rowBit ((s.readV vx).toNat % 64) (s.readByte (s.i.toNat + r)) 8 col

/-- A cell's sprite bit is that of the one sprite row that wrapping puts on its row. -/
theorem State.spriteBit_iff (row : Fin 32) (col : Fin 64) :
    s.spriteBit vx vy n row col = true ↔ ∃ r < n.toNat,
      row.val = ((s.readV vy).toNat % 32 + r) % 32 ∧ s.spriteRowBit vx vy r col = true := by
  have hn := n.isLt
  have hrow := row.isLt
  generalize hr0 : (row.val + 32 - (s.readV vy).toNat % 32) % 32 = r0
  have hbit : s.spriteBit vx vy n row col = (decide (r0 < n.toNat) && s.spriteRowBit vx vy r0 col) := by
    simp only [State.spriteBit, State.spriteRowBit, rowBit, pixelAt, hr0, Nat.mod_mod]
    ac_rfl
  rw [hbit, Bool.and_eq_true, decide_eq_true_eq]
  constructor
  · rintro ⟨hlt, hon⟩
    exact ⟨r0, hlt, by omega, hon⟩
  · rintro ⟨r, hlt, hr, hon⟩
    obtain rfl : r = r0 := by omega
    exact ⟨hlt, hon⟩

theorem State.readBytes_getD {a len k : Nat} (hk : k < len) :
    (s.readBytes a len).getD k 0 = s.readByte (a + k) := by
  rw [List.getD_eq_getElem _ _ (by simpa using hk), State.readBytes_getElem]

/-! ### The drawing -/

/-- The loops of `DXYN` XOR the sprite bit onto every cell (R151). -/
theorem State.drawSprite_cell (row : Fin 32) (col : Fin 64) :
    (s.drawSprite vx vy n).fb.cell row col = (s.fb.cell row col ^^ s.spriteBit vx vy n row col) := by
  have hlen := s.readBytes_length s.i.toNat n.toNat
  have hn := n.isLt
  rw [State.drawSprite, (drawRows_spec _ _ _ _ _ (by omega)).1]
  congr 1
  rw [Bool.eq_iff_iff, List.any_eq_true, State.spriteBit_iff, hlen]
  refine exists_congr fun r => ?_
  rw [List.mem_range]
  refine and_congr_right fun hr => ?_
  rw [State.readBytes_getD s hr, State.spriteRowBit]
  simp only [Bool.and_eq_true, decide_eq_true_eq]
  tauto

/-- The collision bit tells whether a sprite bit falls on a lit cell (R151). -/
theorem State.drawSprite_collision : (s.drawSprite vx vy n).collision = true ↔
    ∃ row col, s.fb.cell row col = true ∧ s.spriteBit vx vy n row col = true := by
  have hlen := s.readBytes_length s.i.toNat n.toNat
  have hn := n.isLt
  rw [State.drawSprite, (drawRows_spec _ _ _ _ _ (by omega)).2, hlen]
  simp only [Bool.false_eq_true, false_or]
  constructor
  · rintro ⟨r, col, hr, hon, hlit⟩
    rw [State.readBytes_getD s hr] at hon
    exact ⟨_, col, hlit, (s.spriteBit_iff vx vy n _ _).2 ⟨r, hr, Fin.val_ofNat .., hon⟩⟩
  · rintro ⟨row, col, hlit, hon⟩
    obtain ⟨r, hr, hrow, hon⟩ := (s.spriteBit_iff vx vy n _ _).1 hon
    obtain rfl : row = Fin.ofNat 32 ((s.readV vy).toNat % 32 + r) := Fin.ext hrow
    exact ⟨r, col, hr, by rwa [State.readBytes_getD s hr], hlit⟩

/-- The state a draw inside memory ends in (R151). -/
def State.drawn : State :=
  { s.writeV vf (flagByte (s.drawSprite vx vy n).collision) with
    fb := (s.drawSprite vx vy n).fb
    drawFlag := true }

theorem exec_drw :
    exec (.drw vx vy n) s = withRange s.i.toNat n.toNat s (s.drawn vx vy n) := rfl

theorem keeps_drawn : Keeps { v := [vf], fb := true, drawFlag := true } s (s.drawn vx vy n) :=
  { keeps_writeV s vf _ with fb := nofun, drawFlag := nofun }

theorem State.drawn_vf : (s.drawn vx vy n).readV vf = flagByte (s.drawSprite vx vy n).collision :=
  State.readV_writeV_same ..

theorem exec_cls : exec .cls s = .next { s with fb := Framebuffer.blank, drawFlag := true } := rfl

end

/-- Settles O52: the cleared framebuffer has every cell off. -/
theorem clearScreen : Obligations.ClearScreen := fun s =>
  ⟨_, exec_cls s, Framebuffer.cell_blank, rfl, { keeps_refl _ s with fb := nofun, drawFlag := nofun }⟩

/-- Settles O53: the range check of `N` bytes, then the drawing, whose collision bit is VF. -/
theorem drawXorsTheSprite : Obligations.DrawXorsTheSprite := by
  intro s x y n
  refine ⟨fun hn hout => raises_of_range (exec_drw s x y n) (fun h => hn (BitVec.eq_of_toNat_eq h)) hout,
    fun hin => ?_⟩
  have hrange : n.toNat = 0 ∨ s.i.toNat + n.toNat ≤ 4096 := hin.imp_left (congrArg BitVec.toNat)
  refine ⟨s.drawn x y n, (exec_drw s x y n).trans (withRange_ok hrange), s.drawSprite_cell x y n, ?_, rfl,
    keeps_drawn s x y n⟩
  have hcollision := s.drawSprite_collision x y n
  rw [State.drawn_vf]
  rcases flagByte_cases (s.drawSprite x y n).collision with ⟨hflag, hoff⟩ | ⟨hflag, hon⟩
  · refine .inr ⟨hflag, fun row col hbit => ?_⟩
    by_contra hlit
    rw [hcollision.2 ⟨row, col, by simpa using hlit, hbit⟩] at hoff
    cases hoff
  · exact .inl ⟨hflag, hcollision.1 hon⟩

/-- The sprite bit depends on the registers of the coordinates, I, memory and the parameters, which a draw keeps
where no coordinate is in VF (R151). -/
theorem Keeps.spriteBit {w : Writes} {s t : State} (hk : Keeps w s t) {x y : Nibble} (hx : x ∉ w.v)
    (hy : y ∉ w.v) (hi : w.i = false) (hbytes : w.bytes = []) (n : Nibble) :
    t.spriteBit x y n = s.spriteBit x y n := by
  have hread (a : Nat) : t.readByte a = s.readByte a := hk.bytes a (by rw [hbytes]; exact List.not_mem_nil)
  funext row col
  simp only [State.spriteBit, hk.v x hx, hk.v y hy, hk.i hi, hk.params, hread]

/-- Settles O54: the second draw has the same sprite bits, and XOR with a bit twice is nothing. -/
theorem drawTwiceRestores : Obligations.DrawTwiceRestores := by
  intro s t x y n hx hy hin h
  obtain ⟨t', ht', hcell, hflag, _, hkeeps⟩ := (drawXorsTheSprite s x y n).2 hin
  cases ht'.symm.trans h
  have hbit := hkeeps.spriteBit (x := x) (y := y) (by simpa using hx) (by simpa using hy) rfl rfl n
  obtain ⟨u, hu, hcell', hflag', _, _⟩ := (drawXorsTheSprite t x y n).2 (by rwa [hkeeps.i rfl])
  rw [hbit] at hcell' hflag'
  refine ⟨u, hu, Framebuffer.ext_cell fun row col => ?_, fun hoff => ⟨?_, ?_⟩⟩
  · rw [hcell', hcell, Bool.xor_assoc, Bool.xor_self, Bool.xor_false]
  · rcases hflag with ⟨_, row, col, hlit, hon⟩ | ⟨h0, _⟩
    · rw [hoff row col hon] at hlit
      cases hlit
    · exact h0
  · have hlit {row col} (hon : s.spriteBit x y n row col = true) : t.fb.cell row col = true := by
      rw [hcell, hoff row col hon, hon]
      rfl
    rcases hflag' with ⟨h1, row, col, _, hon⟩ | ⟨h0, hnone⟩
    · exact ⟨fun _ => ⟨row, col, hon⟩, fun _ => h1⟩
    · refine ⟨fun h1 => absurd (h0.symm.trans h1) (by decide), fun ⟨row, col, hon⟩ => ?_⟩
      exact absurd ((hlit hon).symm.trans (hnone row col hon)) (by decide)

end Sys2Proof.Machine
end
